-- ==== Sys2Proof/Word.lean ====
section
/-! DEFINITION. The widths of the machine: names for its bit vectors and its register numbers. -/

namespace Sys2Proof

/-- The contents of a register and a data address: a `u64` (spec/00_scope.md R4, spec/10_state.md R20). -/
abbrev Word := BitVec 64

/-- A byte of data memory (spec/10_state.md R30). -/
abbrev Byte := BitVec 8

/-- One 64-bit unit of program text. Bits `8k+7 .. 8k` are byte `k` of the slot's image, the first byte
lowest: the word `W` of spec/30_encoding.md R81, whatever the byte order of the program. -/
abbrev Slot := BitVec 64

/-- The `imm` and `next_imm` fields, 32 bits (spec/30_encoding.md R85). -/
abbrev Imm := BitVec 32

/-- The `offset` field, 16 bits (spec/30_encoding.md R85). -/
abbrev Off := BitVec 16

/-- A register an instruction reads, R0 to R10 (spec/30_encoding.md R99). -/
abbrev Reg := Fin 11

/-- A register an instruction writes, R0 to R9: R10 is read-only (spec/10_state.md R22, spec/30_encoding.md R99). -/
abbrev WReg := Fin 10

/-- A written register as the register it is. -/
abbrev WReg.toReg (d : WReg) : Reg := d.castSucc

end Sys2Proof
end

