-- ==== Sys2Proof/Machine/Bits.lean ====
section
/-! DEFINITION. Bits and bytes: extensions, halves, byte reversal, values of bytes (spec/00_scope.md R5). -/

namespace Sys2Proof

/-- The two byte orders, parameter `ENDIAN` (spec/00_scope.md R9, spec/20_memory.md R51). -/
inductive Endian where
  | little
  | big
deriving DecidableEq, Repr

/-- `sext_64(imm)` of spec/30_encoding.md R98. -/
def sext64 (imm : Imm) : Word := imm.signExtend 64

/-- `sext_64(offset)` of spec/30_encoding.md R104. -/
def sextOff (off : Off) : Word := off.signExtend 64

/-- `v[31:0]`, the low half of a register (spec/00_scope.md R6). -/
def low32 (v : Word) : BitVec 32 := v.extractLsb' 0 32

/-- `zext_64(r)` of a 32-bit value (spec/00_scope.md R5). -/
def zext64 (r : BitVec 32) : Word := r.zeroExtend 64

/-- `bswap_16` (spec/00_scope.md R5). -/
def bswap16 (v : BitVec 16) : BitVec 16 := v.extractLsb' 0 8 ++ v.extractLsb' 8 8

/-- `bswap_32` (spec/00_scope.md R5). -/
def bswap32 (v : BitVec 32) : BitVec 32 :=
  v.extractLsb' 0 8 ++ v.extractLsb' 8 8 ++ v.extractLsb' 16 8 ++ v.extractLsb' 24 8

/-- `bswap_64` (spec/00_scope.md R5). -/
def bswap64 (v : BitVec 64) : BitVec 64 :=
  v.extractLsb' 0 8 ++ v.extractLsb' 8 8 ++ v.extractLsb' 16 8 ++ v.extractLsb' 24 8 ++
  v.extractLsb' 32 8 ++ v.extractLsb' 40 8 ++ v.extractLsb' 48 8 ++ v.extractLsb' 56 8

/-- Byte `i` of a value, byte 0 the least significant: `v[8i+7:8i]` (spec/20_memory.md R58). -/
def byteOf (v : Word) (i : Nat) : Byte := v.extractLsb' (8 * i) 8

/-- The low `n` bytes of a value, least significant first. -/
def lowBytes (v : Word) : Nat → List Byte
  | 0 => []
  | n + 1 => lowBytes v n ++ [byteOf v n]

/-- `b[0] + 256*b[1] + ...` of spec/20_memory.md R57. -/
def valueOf : List Byte → Word
  | [] => 0
  | b :: bs => valueOf bs <<< 8 ||| b.zeroExtend 64

/-- The `n` bytes at rising addresses that hold the value in a byte order (spec/20_memory.md R58). -/
def toBytes (e : Endian) (n : Nat) (v : Word) : List Byte :=
  match e with
  | .little => lowBytes v n
  | .big => (lowBytes v n).reverse

/-- The value of bytes at rising addresses in a byte order (spec/20_memory.md R57 step (4)). -/
def ofBytes (e : Endian) (bs : List Byte) : Word :=
  match e with
  | .little => valueOf bs
  | .big => valueOf bs.reverse

/-- The low `8n` bits of a value: `trunc_8n`, widened with zeros (spec/20_memory.md R56). -/
def truncBytes (n : Nat) (v : Word) : Word := valueOf (lowBytes v n)

end Sys2Proof
end

