-- ==== Sys2Proof/Config.lean ====
section
/-! DEFINITION. The parameters of spec/00_scope.md R9, the reset configuration, and the free values. -/

namespace Sys2Proof

/-- `ALIGN_POLICY`: what a misaligned regular access does (spec/20_memory.md R53). -/
inductive AlignPolicy where
  | fault
  | allow
deriving DecidableEq, Repr

/-- `SHIFT_POLICY`: what a shift by the width or more does (spec/40_alu64.md R123). -/
inductive ShiftPolicy where
  | mask
  | refuse
deriving DecidableEq, Repr

/-- `LOCAL_CALL_FIELD`: the field that holds the displacement of a BPF-local call (spec/45_call_exit.md R281). -/
inductive LocalCallField where
  | offset
  | imm
deriving DecidableEq, Repr

/-- `SHARED_MODEL`: what a read of a shared region returns (spec/20_memory.md R62). -/
inductive SharedModel where
  | sc
  | havoc
deriving DecidableEq, Repr

/-- One range of `REGIONS` (spec/20_memory.md R54). -/
structure Region where
  base : Nat
  len : Nat
  readable : Bool
  writable : Bool
  shared : Bool
deriving DecidableEq, Repr

/-- A region a run may access now, with the moment it came into being (its `birth`, the model's own
number: a region of the same addresses that comes into being later is another one, spec/20_memory.md R67). -/
structure LiveRegion where
  region : Region
  birth : Nat
deriving DecidableEq, Repr

/-- The two numbering spaces of helper functions (spec/45_call_exit.md R277, R278). -/
inductive HelperSpace where
  | agnostic
  | platform
deriving DecidableEq, Repr

/-- One outcome of a helper (spec/45_call_exit.md R278): a value or "no value" with the bytes it changes, or a fault
with its information. That the information is a natural number is a DESIGN CHOICE, safe: log 26. -/
inductive HelperOutcome where
  | ret (v : Option Word) (writes : List Host.Cell)
  | fault (info : Nat)
deriving DecidableEq, Repr, Inhabited

/-- What the platform states of a helper's relation `h` (spec/45_call_exit.md R278) for one list of argument values,
where the data memory holds the bytes `mem`: the outcomes `h` allows are `outcome` and `others`, and no other. -/
structure HelperCase where
  args : List Word
  mem : List Host.Cell
  outcome : HelperOutcome
  others : List HelperOutcome
deriving DecidableEq, Repr

/-- A helper's entry `(k, h)` in its table (spec/45_call_exit.md R278): the number of arguments, and `h` where the
platform states it, the first case that applies counting. Where none applies the outcome is a free value (log 9). -/
structure Helper where
  arity : Fin 6
  cases : List HelperCase
deriving DecidableEq, Repr

/-- The parameters of spec/00_scope.md R9 that are values. Fixed for a run: no step changes them.
`frame_base` and `MAX_CALL_DEPTH` are `frameBase0` and `calleeFrames` (the frame addresses of depth 1, 2, …,
as many as calls may be active); partial functions are lists of key and value; `codeAddr` is `code_addr` of slot
0, 1, …, as far as the platform states it (log 10). -/
structure Config where
  endian : Endian
  stackSize : Nat
  frameBase0 : Nat
  calleeFrames : List Nat
  regions : List Region
  entryArgs : List Word
  helpersAgnostic : List (Imm × Helper)
  helpersPlatform : List (Imm × Helper)
  mapsSupported : Bool
  mapByFd : List (Imm × Word)
  mapByIdx : List (Imm × Word)
  mva : List (Word × Word)
  varsSupported : Bool
  variableAddr : List (Imm × Word)
  codeAddr : List Word
  legacyPacket : Bool
  alignPolicy : AlignPolicy
  shiftPolicy : ShiftPolicy
  localCallField : LocalCallField
  sharedModel : SharedModel
deriving DecidableEq, Repr

/-- The configuration of `State.reset`: the value R9 gives a parameter where it gives one, and that of the
spec's test vectors where it says OPEN (spec/95_test_vectors.md; DESIGN CHOICE, unsafe: log 2). -/
def Config.testVectors : Config where
  endian := .little
  stackSize := 512
  frameBase0 := 0xfe00
  calleeFrames := [0xfc00, 0xfa00, 0xf800, 0xf600, 0xf400, 0xf200, 0xf000, 0xee00]
  regions := []
  entryArgs := []
  helpersAgnostic := []
  helpersPlatform := []
  mapsSupported := false
  mapByFd := []
  mapByIdx := []
  mva := []
  varsSupported := false
  variableAddr := []
  codeAddr := []
  legacyPacket := false
  alignPolicy := .fault
  shiftPolicy := .mask
  localCallField := .offset
  sharedModel := .havoc

/-- FREE VALUE. The byte that address `addr` of a region born at `birth` holds before anything is written
there (spec/20_memory.md R67). DESIGN CHOICE, safe: log 6. -/
opaque Config.freeByte (birth addr : Nat) : Byte

/-- FREE VALUE. What draw number `draw` of a read of a shared region returns, cut to the width of the read
(spec/20_memory.md R62). DESIGN CHOICE, safe: log 7. -/
opaque Config.havocValue (draw : Nat) : Word

/-- FREE VALUE. The writes that other agents make to shared regions at moment number `moment` of the moments before an
instruction, one after another (spec/20_memory.md R62 (b), spec/70_reset_and_hazards.md R454). DESIGN CHOICE, safe:
log 8. -/
opaque Config.freeBatch (moment : Nat) : List Host.Cell

/-- FREE VALUE. How many of the writes that other agents make before the next instruction have been made when byte
number `byte` of a misaligned read of a shared region is read, in draw number `draw` (spec/20_memory.md R59, R62 (b)).
DESIGN CHOICE, safe: log 8. -/
opaque Config.seenAfter (draw byte : Nat) : Nat

/-- FREE VALUE. The outcome, at draw number `draw`, of a helper of a configuration called with arguments `args`, where no
case the platform states applies, when the data memory lists `mem` and the regions are `live`
(spec/45_call_exit.md R278). DESIGN CHOICE, safe: log 9. -/
opaque Config.helperOutcome (cfg : Config) (space : HelperSpace) (id : Imm) (args : List Word)
    (mem : List Host.Cell) (live : List LiveRegion) (draw : Nat) : HelperOutcome

/-- FREE VALUE. Which outcome of a case the platform states the helper takes at draw number `draw`
(spec/45_call_exit.md R278). DESIGN CHOICE, safe: log 9. -/
opaque Config.helperChoice (cfg : Config) (space : HelperSpace) (id : Imm) (args : List Word)
    (mem : List Host.Cell) (live : List LiveRegion) (draw : Nat) : Nat

/-- FREE VALUE. `code_addr` of a configuration at a slot for which the platform states none, before it is made
different from those of the slots below (spec/48_imm64.md R359). DESIGN CHOICE, safe: log 10. -/
opaque Config.freeCodeAddr (cfg : Config) (slot : Nat) : Word

end Sys2Proof
end

