-- ==== Sys2Proof/Syntax.lean ====
section
/-! DEFINITION. The instructions: one constructor per row of spec/opcode_table.json, named as spec/30_encoding.md
R110 names them. A register operand has the range the row's form admits (`reg`: 0 to 10, `reg_w`: 0 to 9,
R99, R108), so a term with another register cannot be written. `callLocal` carries both fields that
`LOCAL_CALL_FIELD` chooses between (spec/45_call_exit.md R281); the unused one must be 0 (`Instr.unusedFieldsZero`). -/

namespace Sys2Proof

/-- An instruction of the opcode map (spec/30_encoding.md R106). -/
inductive Instr where
  -- BPF_ALU64: spec/40_alu64.md
  | add64Imm (dst : WReg) (imm : Imm)
  | add64Reg (dst : WReg) (src : Reg)
  | sub64Imm (dst : WReg) (imm : Imm)
  | sub64Reg (dst : WReg) (src : Reg)
  | mul64Imm (dst : WReg) (imm : Imm)
  | mul64Reg (dst : WReg) (src : Reg)
  | div64Imm (dst : WReg) (imm : Imm)
  | div64Reg (dst : WReg) (src : Reg)
  | or64Imm (dst : WReg) (imm : Imm)
  | or64Reg (dst : WReg) (src : Reg)
  | and64Imm (dst : WReg) (imm : Imm)
  | and64Reg (dst : WReg) (src : Reg)
  | lsh64Imm (dst : WReg) (imm : Imm)
  | lsh64Reg (dst : WReg) (src : Reg)
  | rsh64Imm (dst : WReg) (imm : Imm)
  | rsh64Reg (dst : WReg) (src : Reg)
  | neg64 (dst : WReg)
  | mod64Imm (dst : WReg) (imm : Imm)
  | mod64Reg (dst : WReg) (src : Reg)
  | xor64Imm (dst : WReg) (imm : Imm)
  | xor64Reg (dst : WReg) (src : Reg)
  | mov64Imm (dst : WReg) (imm : Imm)
  | mov64Reg (dst : WReg) (src : Reg)
  | arsh64Imm (dst : WReg) (imm : Imm)
  | arsh64Reg (dst : WReg) (src : Reg)
  -- BPF_ALU: spec/41_alu32.md
  | add32Imm (dst : WReg) (imm : Imm)
  | add32Reg (dst : WReg) (src : Reg)
  | sub32Imm (dst : WReg) (imm : Imm)
  | sub32Reg (dst : WReg) (src : Reg)
  | mul32Imm (dst : WReg) (imm : Imm)
  | mul32Reg (dst : WReg) (src : Reg)
  | div32Imm (dst : WReg) (imm : Imm)
  | div32Reg (dst : WReg) (src : Reg)
  | or32Imm (dst : WReg) (imm : Imm)
  | or32Reg (dst : WReg) (src : Reg)
  | and32Imm (dst : WReg) (imm : Imm)
  | and32Reg (dst : WReg) (src : Reg)
  | lsh32Imm (dst : WReg) (imm : Imm)
  | lsh32Reg (dst : WReg) (src : Reg)
  | rsh32Imm (dst : WReg) (imm : Imm)
  | rsh32Reg (dst : WReg) (src : Reg)
  | neg32 (dst : WReg)
  | mod32Imm (dst : WReg) (imm : Imm)
  | mod32Reg (dst : WReg) (src : Reg)
  | xor32Imm (dst : WReg) (imm : Imm)
  | xor32Reg (dst : WReg) (src : Reg)
  | mov32Imm (dst : WReg) (imm : Imm)
  | mov32Reg (dst : WReg) (src : Reg)
  | arsh32Imm (dst : WReg) (imm : Imm)
  | arsh32Reg (dst : WReg) (src : Reg)
  -- byte swaps: spec/42_byteswap.md
  | le16 (dst : WReg)
  | le32 (dst : WReg)
  | le64 (dst : WReg)
  | be16 (dst : WReg)
  | be32 (dst : WReg)
  | be64 (dst : WReg)
  -- BPF_JMP jumps: spec/43_jump64.md
  | ja (off : Off)
  | jeqImm (dst : Reg) (imm : Imm) (off : Off)
  | jeqReg (dst : Reg) (src : Reg) (off : Off)
  | jgtImm (dst : Reg) (imm : Imm) (off : Off)
  | jgtReg (dst : Reg) (src : Reg) (off : Off)
  | jgeImm (dst : Reg) (imm : Imm) (off : Off)
  | jgeReg (dst : Reg) (src : Reg) (off : Off)
  | jsetImm (dst : Reg) (imm : Imm) (off : Off)
  | jsetReg (dst : Reg) (src : Reg) (off : Off)
  | jneImm (dst : Reg) (imm : Imm) (off : Off)
  | jneReg (dst : Reg) (src : Reg) (off : Off)
  | jsgtImm (dst : Reg) (imm : Imm) (off : Off)
  | jsgtReg (dst : Reg) (src : Reg) (off : Off)
  | jsgeImm (dst : Reg) (imm : Imm) (off : Off)
  | jsgeReg (dst : Reg) (src : Reg) (off : Off)
  | jltImm (dst : Reg) (imm : Imm) (off : Off)
  | jltReg (dst : Reg) (src : Reg) (off : Off)
  | jleImm (dst : Reg) (imm : Imm) (off : Off)
  | jleReg (dst : Reg) (src : Reg) (off : Off)
  | jsltImm (dst : Reg) (imm : Imm) (off : Off)
  | jsltReg (dst : Reg) (src : Reg) (off : Off)
  | jsleImm (dst : Reg) (imm : Imm) (off : Off)
  | jsleReg (dst : Reg) (src : Reg) (off : Off)
  -- BPF_JMP32 jumps: spec/44_jump32.md
  | jeq32Imm (dst : Reg) (imm : Imm) (off : Off)
  | jeq32Reg (dst : Reg) (src : Reg) (off : Off)
  | jgt32Imm (dst : Reg) (imm : Imm) (off : Off)
  | jgt32Reg (dst : Reg) (src : Reg) (off : Off)
  | jge32Imm (dst : Reg) (imm : Imm) (off : Off)
  | jge32Reg (dst : Reg) (src : Reg) (off : Off)
  | jset32Imm (dst : Reg) (imm : Imm) (off : Off)
  | jset32Reg (dst : Reg) (src : Reg) (off : Off)
  | jne32Imm (dst : Reg) (imm : Imm) (off : Off)
  | jne32Reg (dst : Reg) (src : Reg) (off : Off)
  | jsgt32Imm (dst : Reg) (imm : Imm) (off : Off)
  | jsgt32Reg (dst : Reg) (src : Reg) (off : Off)
  | jsge32Imm (dst : Reg) (imm : Imm) (off : Off)
  | jsge32Reg (dst : Reg) (src : Reg) (off : Off)
  | jlt32Imm (dst : Reg) (imm : Imm) (off : Off)
  | jlt32Reg (dst : Reg) (src : Reg) (off : Off)
  | jle32Imm (dst : Reg) (imm : Imm) (off : Off)
  | jle32Reg (dst : Reg) (src : Reg) (off : Off)
  | jslt32Imm (dst : Reg) (imm : Imm) (off : Off)
  | jslt32Reg (dst : Reg) (src : Reg) (off : Off)
  | jsle32Imm (dst : Reg) (imm : Imm) (off : Off)
  | jsle32Reg (dst : Reg) (src : Reg) (off : Off)
  -- calls and exit: spec/45_call_exit.md
  | callHelper (id : Imm)
  | callLocal (off : Off) (imm : Imm)
  | callPlatform (id : Imm)
  | exit
  -- regular loads and stores: spec/46_load_store.md
  | ldxw (dst : WReg) (src : Reg) (off : Off)
  | ldxh (dst : WReg) (src : Reg) (off : Off)
  | ldxb (dst : WReg) (src : Reg) (off : Off)
  | ldxdw (dst : WReg) (src : Reg) (off : Off)
  | stw (dst : Reg) (off : Off) (imm : Imm)
  | sth (dst : Reg) (off : Off) (imm : Imm)
  | stb (dst : Reg) (off : Off) (imm : Imm)
  | stdw (dst : Reg) (off : Off) (imm : Imm)
  | stxw (dst : Reg) (off : Off) (src : Reg)
  | stxh (dst : Reg) (off : Off) (src : Reg)
  | stxb (dst : Reg) (off : Off) (src : Reg)
  | stxdw (dst : Reg) (off : Off) (src : Reg)
  -- atomic operations: spec/47_atomic.md
  | atomicAdd32 (dst : Reg) (off : Off) (src : Reg)
  | atomicFetchAdd32 (dst : Reg) (off : Off) (src : WReg)
  | atomicOr32 (dst : Reg) (off : Off) (src : Reg)
  | atomicFetchOr32 (dst : Reg) (off : Off) (src : WReg)
  | atomicAnd32 (dst : Reg) (off : Off) (src : Reg)
  | atomicFetchAnd32 (dst : Reg) (off : Off) (src : WReg)
  | atomicXor32 (dst : Reg) (off : Off) (src : Reg)
  | atomicFetchXor32 (dst : Reg) (off : Off) (src : WReg)
  | atomicXchg32 (dst : Reg) (off : Off) (src : WReg)
  | atomicCmpxchg32 (dst : Reg) (off : Off) (src : Reg)
  | atomicAdd64 (dst : Reg) (off : Off) (src : Reg)
  | atomicFetchAdd64 (dst : Reg) (off : Off) (src : WReg)
  | atomicOr64 (dst : Reg) (off : Off) (src : Reg)
  | atomicFetchOr64 (dst : Reg) (off : Off) (src : WReg)
  | atomicAnd64 (dst : Reg) (off : Off) (src : Reg)
  | atomicFetchAnd64 (dst : Reg) (off : Off) (src : WReg)
  | atomicXor64 (dst : Reg) (off : Off) (src : Reg)
  | atomicFetchXor64 (dst : Reg) (off : Off) (src : WReg)
  | atomicXchg64 (dst : Reg) (off : Off) (src : WReg)
  | atomicCmpxchg64 (dst : Reg) (off : Off) (src : Reg)
  -- 64-bit immediate loads (two slots): spec/48_imm64.md
  | lddw (dst : WReg) (imm : Imm) (nextImm : Imm)
  | ldMapFd (dst : WReg) (imm : Imm)
  | ldMapFdValue (dst : WReg) (imm : Imm) (nextImm : Imm)
  | ldVarAddr (dst : WReg) (imm : Imm)
  | ldCodeAddr (dst : WReg) (imm : Imm)
  | ldMapIdx (dst : WReg) (imm : Imm)
  | ldMapIdxValue (dst : WReg) (imm : Imm) (nextImm : Imm)
  -- legacy packet access: every field is "any" (spec/49_legacy_packet.md R371): spec/49_legacy_packet.md
  | ldabsw (dst : BitVec 4) (src : BitVec 4) (off : Off) (imm : Imm)
  | ldabsh (dst : BitVec 4) (src : BitVec 4) (off : Off) (imm : Imm)
  | ldabsb (dst : BitVec 4) (src : BitVec 4) (off : Off) (imm : Imm)
  | ldabsdw (dst : BitVec 4) (src : BitVec 4) (off : Off) (imm : Imm)
  | ldindw (dst : BitVec 4) (src : BitVec 4) (off : Off) (imm : Imm)
  | ldindh (dst : BitVec 4) (src : BitVec 4) (off : Off) (imm : Imm)
  | ldindb (dst : BitVec 4) (src : BitVec 4) (off : Off) (imm : Imm)
  | ldinddw (dst : BitVec 4) (src : BitVec 4) (off : Off) (imm : Imm)
deriving DecidableEq, Repr

end Sys2Proof
end

