-- ==== Sys2Proof/WellFormed.lean ====
section
/-! DEFINITION. The checks on one instruction that its operands' types do not already make: the points of
spec/30_encoding.md R109 that name one instruction and no target. The checks over a whole program are in
Sys2Proof/Machine/Launch.lean. -/

namespace Sys2Proof

/-- R102 for the one instruction with a field that is unused by choice of a parameter: a BPF-local call has
0 in the field `LOCAL_CALL_FIELD` does not name (spec/45_call_exit.md R281). -/
def Instr.unusedFieldsZero (lcf : LocalCallField) : Instr → Bool
  | .callLocal off imm =>
    match lcf with
    | .offset => imm == 0
    | .imm => off == 0
  | _ => true

/-- R109 (6): a helper call names a key of its table (spec/45_call_exit.md R277). -/
def Instr.helperKnown (cfg : Config) : Instr → Bool
  | .callHelper id => (cfg.helpersAgnostic.lookup id).isSome
  | .callPlatform id => (cfg.helpersPlatform.lookup id).isSome
  | _ => true

/-- R109 (7): a map or variable load is supported and names something (spec/48_imm64.md R357, R358). -/
def Instr.operandSupported (cfg : Config) : Instr → Bool
  | .ldMapFd _ imm => cfg.mapsSupported && (cfg.mapByFd.lookup imm).isSome
  | .ldMapIdx _ imm => cfg.mapsSupported && (cfg.mapByIdx.lookup imm).isSome
  | .ldMapFdValue _ imm _ => cfg.mapsSupported && ((cfg.mapByFd.lookup imm).bind (cfg.mva.lookup ·)).isSome
  | .ldMapIdxValue _ imm _ => cfg.mapsSupported && ((cfg.mapByIdx.lookup imm).bind (cfg.mva.lookup ·)).isSome
  | .ldVarAddr _ imm => cfg.varsSupported && (cfg.variableAddr.lookup imm).isSome
  | _ => true

/-- The eight legacy packet loads (spec/49_legacy_packet.md R370). -/
def Instr.isLegacy : Instr → Bool
  | .ldabsw _ _ _ _ => true
  | .ldabsh _ _ _ _ => true
  | .ldabsb _ _ _ _ => true
  | .ldabsdw _ _ _ _ => true
  | .ldindw _ _ _ _ => true
  | .ldindh _ _ _ _ => true
  | .ldindb _ _ _ _ => true
  | .ldinddw _ _ _ _ => true
  | _ => false

/-- The width and immediate of a shift by an immediate; none for every other instruction. -/
def Instr.shiftImm : Instr → Option (Nat × Imm)
  | .lsh64Imm _ imm => some (64, imm)
  | .rsh64Imm _ imm => some (64, imm)
  | .arsh64Imm _ imm => some (64, imm)
  | .lsh32Imm _ imm => some (32, imm)
  | .rsh32Imm _ imm => some (32, imm)
  | .arsh32Imm _ imm => some (32, imm)
  | _ => none

/-- With `SHIFT_POLICY = refuse`, an immediate shift amount is below the width (spec/40_alu64.md R123,
spec/41_alu32.md R163). -/
def Instr.shiftInRange (cfg : Config) (i : Instr) : Bool :=
  match cfg.shiftPolicy, i.shiftImm with
  | .refuse, some (width, imm) => decide (imm.toNat < width)
  | _, _ => true

/-- An instruction that a program checked by R109 may hold, its targets apart. -/
def Instr.wellFormed (cfg : Config) (i : Instr) : Bool :=
  i.unusedFieldsZero cfg.localCallField && i.helperKnown cfg && i.operandSupported cfg &&
  !i.isLegacy && i.shiftInRange cfg

end Sys2Proof
end

