-- ==== Sys2Proof/Decode.lean ====
section
/-! DEFINITION. The decoder and the encoder: fields of a slot (spec/30_encoding.md R81, R82), the opcode map
(R106), what is not an instruction (R99 to R102, R107), and the way back. -/

namespace Sys2Proof

/-- The five fields of the basic format (spec/30_encoding.md R80, R85). -/
structure Fields where
  opcode : BitVec 8
  dst : BitVec 4
  src : BitVec 4
  off : Off
  imm : Imm
deriving DecidableEq, Repr

/-- Why a slot is not an instruction: the reason `NotAnInstruction` of spec/60_exceptions.md R405, in its parts. -/
inductive DecodeError where
  /-- There is no slot here. -/
  | noSlot
  /-- A reserved opcode byte (R100), the all-zero slot among them (R107). -/
  | reservedOpcode
  /-- A reserved value of a selecting field (R101). -/
  | reservedSelector
  /-- A non-zero unused field (R102). -/
  | unusedField
  /-- A register number above 10, or 10 in a written position (R99). -/
  | badRegister
  /-- A wide instruction without a second slot, or with one whose opcode, registers or offset are not 0 (R87). -/
  | badSecondSlot
deriving DecidableEq, Repr

/-- The fields of a slot: R81 for little-endian BPF, R82 (over the bytes reversed) for big-endian BPF. -/
def split (e : Endian) (w : Slot) : Fields :=
  match e with
  | .little => ⟨w.extractLsb' 0 8, w.extractLsb' 8 4, w.extractLsb' 12 4, w.extractLsb' 16 16, w.extractLsb' 32 32⟩
  | .big =>
    let v := bswap64 w
    ⟨v.extractLsb' 56 8, v.extractLsb' 52 4, v.extractLsb' 48 4, v.extractLsb' 32 16, v.extractLsb' 0 32⟩

/-- The slot that holds the fields: R81 or R82 read the other way. -/
def join (e : Endian) (f : Fields) : Slot :=
  match e with
  | .little => f.imm ++ f.off ++ f.src ++ f.dst ++ f.opcode
  | .big => bswap64 (f.opcode ++ f.dst ++ f.src ++ f.off ++ f.imm)

/-- A field that names a register (R99). -/
def regOf (n : BitVec 4) : Except DecodeError Reg :=
  if h : n.toNat < 11 then .ok ⟨n.toNat, h⟩ else .error .badRegister

/-- A field that names a register the instruction writes (R99). -/
def wregOf (n : BitVec 4) : Except DecodeError WReg :=
  if h : n.toNat < 10 then .ok ⟨n.toNat, h⟩ else .error .badRegister

/-- R102: an unused field holds 0. -/
def unused {n : Nat} (field : BitVec n) : Except DecodeError Unit :=
  if field = 0 then .ok () else .error .unusedField

/-- The row a selecting field names, or R101. -/
def select {α : Type} (rows : List (Imm × α)) (sel : Imm) : Except DecodeError α :=
  match rows.lookup sel with
  | some a => .ok a
  | none => .error .reservedSelector

/-- An atomic operation reads `src_reg`, or reads and writes it (R99). -/
inductive AtomicForm where
  | reading (mk : Reg → Off → Reg → Instr)
  | fetching (mk : Reg → Off → WReg → Instr)

/-- Which fields the instructions of one opcode byte use, and how: the columns `fields` of
spec/opcode_table.json (R108). -/
inductive Form where
  /-- dst_reg written, imm used. -/
  | dstImm (mk : WReg → Imm → Instr)
  /-- dst_reg written, src_reg read. -/
  | dstSrc (mk : WReg → Reg → Instr)
  /-- dst_reg written. -/
  | dstOnly (mk : WReg → Instr)
  /-- dst_reg written, imm selects the width. -/
  | swap (rows : List (Imm × (WReg → Instr)))
  /-- offset used. -/
  | offOnly (mk : Off → Instr)
  /-- dst_reg read, imm and offset used. -/
  | cmpImm (mk : Reg → Imm → Off → Instr)
  /-- dst_reg and src_reg read, offset used. -/
  | cmpReg (mk : Reg → Reg → Off → Instr)
  /-- src_reg selects the kind of call (spec/45_call_exit.md R276). -/
  | call
  /-- no field used. -/
  | bare (i : Instr)
  /-- dst_reg written, src_reg read, offset used. -/
  | load (mk : WReg → Reg → Off → Instr)
  /-- dst_reg read, offset and imm used. -/
  | storeImm (mk : Reg → Off → Imm → Instr)
  /-- dst_reg and src_reg read, offset used. -/
  | storeReg (mk : Reg → Off → Reg → Instr)
  /-- imm selects the operation. -/
  | atomic (rows : List (Imm × AtomicForm))
  /-- two slots, src_reg selects the subtype (spec/48_imm64.md R355). -/
  | wide
  /-- every field any. -/
  | any (mk : BitVec 4 → BitVec 4 → Off → Imm → Instr)

/-- BPF_ALU64 (spec/40_alu64.md). -/
def alu64Rows : List (BitVec 8 × Form) :=
  [(0x07#8, .dstImm .add64Imm), (0x0f#8, .dstSrc .add64Reg), (0x17#8, .dstImm .sub64Imm),
   (0x1f#8, .dstSrc .sub64Reg), (0x27#8, .dstImm .mul64Imm), (0x2f#8, .dstSrc .mul64Reg),
   (0x37#8, .dstImm .div64Imm), (0x3f#8, .dstSrc .div64Reg), (0x47#8, .dstImm .or64Imm),
   (0x4f#8, .dstSrc .or64Reg), (0x57#8, .dstImm .and64Imm), (0x5f#8, .dstSrc .and64Reg),
   (0x67#8, .dstImm .lsh64Imm), (0x6f#8, .dstSrc .lsh64Reg), (0x77#8, .dstImm .rsh64Imm),
   (0x7f#8, .dstSrc .rsh64Reg), (0x87#8, .dstOnly .neg64), (0x97#8, .dstImm .mod64Imm),
   (0x9f#8, .dstSrc .mod64Reg), (0xa7#8, .dstImm .xor64Imm), (0xaf#8, .dstSrc .xor64Reg),
   (0xb7#8, .dstImm .mov64Imm), (0xbf#8, .dstSrc .mov64Reg), (0xc7#8, .dstImm .arsh64Imm),
   (0xcf#8, .dstSrc .arsh64Reg)]

/-- Opcode 0xd4: the width (spec/42_byteswap.md R195). -/
def leRows : List (Imm × (WReg → Instr)) :=
  [(0x10#32, .le16),
   (0x20#32, .le32),
   (0x40#32, .le64)]

/-- Opcode 0xdc: the width (spec/42_byteswap.md R195). -/
def beRows : List (Imm × (WReg → Instr)) :=
  [(0x10#32, .be16),
   (0x20#32, .be32),
   (0x40#32, .be64)]

/-- BPF_ALU with the byte swaps (spec/41_alu32.md, spec/42_byteswap.md). -/
def alu32Rows : List (BitVec 8 × Form) :=
  [(0x04#8, .dstImm .add32Imm), (0x0c#8, .dstSrc .add32Reg), (0x14#8, .dstImm .sub32Imm),
   (0x1c#8, .dstSrc .sub32Reg), (0x24#8, .dstImm .mul32Imm), (0x2c#8, .dstSrc .mul32Reg),
   (0x34#8, .dstImm .div32Imm), (0x3c#8, .dstSrc .div32Reg), (0x44#8, .dstImm .or32Imm),
   (0x4c#8, .dstSrc .or32Reg), (0x54#8, .dstImm .and32Imm), (0x5c#8, .dstSrc .and32Reg),
   (0x64#8, .dstImm .lsh32Imm), (0x6c#8, .dstSrc .lsh32Reg), (0x74#8, .dstImm .rsh32Imm),
   (0x7c#8, .dstSrc .rsh32Reg), (0x84#8, .dstOnly .neg32), (0x94#8, .dstImm .mod32Imm),
   (0x9c#8, .dstSrc .mod32Reg), (0xa4#8, .dstImm .xor32Imm), (0xac#8, .dstSrc .xor32Reg),
   (0xb4#8, .dstImm .mov32Imm), (0xbc#8, .dstSrc .mov32Reg), (0xc4#8, .dstImm .arsh32Imm),
   (0xcc#8, .dstSrc .arsh32Reg), (0xd4#8, .swap leRows), (0xdc#8, .swap beRows)]

/-- BPF_JMP and BPF_JMP32 (spec/43_jump64.md, spec/44_jump32.md, spec/45_call_exit.md). -/
def jumpRows : List (BitVec 8 × Form) :=
  [(0x05#8, .offOnly .ja), (0x15#8, .cmpImm .jeqImm), (0x1d#8, .cmpReg .jeqReg),
   (0x25#8, .cmpImm .jgtImm), (0x2d#8, .cmpReg .jgtReg), (0x35#8, .cmpImm .jgeImm),
   (0x3d#8, .cmpReg .jgeReg), (0x45#8, .cmpImm .jsetImm), (0x4d#8, .cmpReg .jsetReg),
   (0x55#8, .cmpImm .jneImm), (0x5d#8, .cmpReg .jneReg), (0x65#8, .cmpImm .jsgtImm),
   (0x6d#8, .cmpReg .jsgtReg), (0x75#8, .cmpImm .jsgeImm), (0x7d#8, .cmpReg .jsgeReg),
   (0xa5#8, .cmpImm .jltImm), (0xad#8, .cmpReg .jltReg), (0xb5#8, .cmpImm .jleImm),
   (0xbd#8, .cmpReg .jleReg), (0xc5#8, .cmpImm .jsltImm), (0xcd#8, .cmpReg .jsltReg),
   (0xd5#8, .cmpImm .jsleImm), (0xdd#8, .cmpReg .jsleReg), (0x16#8, .cmpImm .jeq32Imm),
   (0x1e#8, .cmpReg .jeq32Reg), (0x26#8, .cmpImm .jgt32Imm), (0x2e#8, .cmpReg .jgt32Reg),
   (0x36#8, .cmpImm .jge32Imm), (0x3e#8, .cmpReg .jge32Reg), (0x46#8, .cmpImm .jset32Imm),
   (0x4e#8, .cmpReg .jset32Reg), (0x56#8, .cmpImm .jne32Imm), (0x5e#8, .cmpReg .jne32Reg),
   (0x66#8, .cmpImm .jsgt32Imm), (0x6e#8, .cmpReg .jsgt32Reg), (0x76#8, .cmpImm .jsge32Imm),
   (0x7e#8, .cmpReg .jsge32Reg), (0xa6#8, .cmpImm .jlt32Imm), (0xae#8, .cmpReg .jlt32Reg),
   (0xb6#8, .cmpImm .jle32Imm), (0xbe#8, .cmpReg .jle32Reg), (0xc6#8, .cmpImm .jslt32Imm),
   (0xce#8, .cmpReg .jslt32Reg), (0xd6#8, .cmpImm .jsle32Imm), (0xde#8, .cmpReg .jsle32Reg),
   (0x95#8, .bare .exit), (0x85#8, .call)]

/-- Opcode 0xc3: the operation (spec/47_atomic.md R321). -/
def atomic32Rows : List (Imm × AtomicForm) :=
  [(0x00#32, .reading .atomicAdd32),
   (0x01#32, .fetching .atomicFetchAdd32),
   (0x40#32, .reading .atomicOr32),
   (0x41#32, .fetching .atomicFetchOr32),
   (0x50#32, .reading .atomicAnd32),
   (0x51#32, .fetching .atomicFetchAnd32),
   (0xa0#32, .reading .atomicXor32),
   (0xa1#32, .fetching .atomicFetchXor32),
   (0xe1#32, .fetching .atomicXchg32),
   (0xf1#32, .reading .atomicCmpxchg32)]

/-- Opcode 0xdb: the operation (spec/47_atomic.md R321). -/
def atomic64Rows : List (Imm × AtomicForm) :=
  [(0x00#32, .reading .atomicAdd64),
   (0x01#32, .fetching .atomicFetchAdd64),
   (0x40#32, .reading .atomicOr64),
   (0x41#32, .fetching .atomicFetchOr64),
   (0x50#32, .reading .atomicAnd64),
   (0x51#32, .fetching .atomicFetchAnd64),
   (0xa0#32, .reading .atomicXor64),
   (0xa1#32, .fetching .atomicFetchXor64),
   (0xe1#32, .fetching .atomicXchg64),
   (0xf1#32, .reading .atomicCmpxchg64)]

/-- BPF_LDX, BPF_ST, BPF_STX and BPF_LD (spec/46_load_store.md to spec/49_legacy_packet.md). -/
def memoryRows : List (BitVec 8 × Form) :=
  [(0x61#8, .load .ldxw), (0x69#8, .load .ldxh), (0x71#8, .load .ldxb),
   (0x79#8, .load .ldxdw), (0x62#8, .storeImm .stw), (0x6a#8, .storeImm .sth),
   (0x72#8, .storeImm .stb), (0x7a#8, .storeImm .stdw), (0x63#8, .storeReg .stxw),
   (0x6b#8, .storeReg .stxh), (0x73#8, .storeReg .stxb), (0x7b#8, .storeReg .stxdw),
   (0x20#8, .any .ldabsw), (0x28#8, .any .ldabsh), (0x30#8, .any .ldabsb),
   (0x38#8, .any .ldabsdw), (0x40#8, .any .ldindw), (0x48#8, .any .ldindh),
   (0x50#8, .any .ldindb), (0x58#8, .any .ldinddw), (0xc3#8, .atomic atomic32Rows),
   (0xdb#8, .atomic atomic64Rows), (0x18#8, .wide)]

/-- The opcode map (R106): the 122 defined opcode bytes. Every other byte is reserved (R100). -/
def opcodeRows : List (BitVec 8 × Form) := alu64Rows ++ alu32Rows ++ jumpRows ++ memoryRows

/-- Opcode 0x85 by `src_reg` (spec/45_call_exit.md R276, R281). -/
def decodeCall (lcf : LocalCallField) (f : Fields) : Except DecodeError Instr := do
  unused f.dst
  if f.src = 0 then
    unused f.off
    return .callHelper f.imm
  else if f.src = 1 then
    match lcf with
    | .offset => unused f.imm
    | .imm => unused f.off
    return .callLocal f.off f.imm
  else if f.src = 2 then
    unused f.off
    return .callPlatform f.imm
  else .error .reservedSelector

/-- Opcode 0x18 by `src_reg`, with the second slot's fields (R87, R101, R102, spec/48_imm64.md R355, R356). -/
def decodeWide (f : Fields) (next : Option Fields) : Except DecodeError Instr := do
  unused f.off
  match next with
  | none => .error .badSecondSlot
  | some g =>
    if g.opcode = 0 ∧ g.dst = 0 ∧ g.src = 0 ∧ g.off = 0 then
      if f.src = 0 then
        return .lddw (← wregOf f.dst) f.imm g.imm
      else if f.src = 1 then
        unused g.imm
        return .ldMapFd (← wregOf f.dst) f.imm
      else if f.src = 2 then
        return .ldMapFdValue (← wregOf f.dst) f.imm g.imm
      else if f.src = 3 then
        unused g.imm
        return .ldVarAddr (← wregOf f.dst) f.imm
      else if f.src = 4 then
        unused g.imm
        return .ldCodeAddr (← wregOf f.dst) f.imm
      else if f.src = 5 then
        unused g.imm
        return .ldMapIdx (← wregOf f.dst) f.imm
      else if f.src = 6 then
        return .ldMapIdxValue (← wregOf f.dst) f.imm g.imm
      else .error .reservedSelector
    else .error .badSecondSlot

/-- The instruction of a form whose fields are `f` (and, of a wide one, `next`): R99, R101, R102. -/
def decodeForm (lcf : LocalCallField) (f : Fields) (next : Option Fields) : Form → Except DecodeError Instr
  | .dstImm mk => do
    unused f.src
    unused f.off
    return mk (← wregOf f.dst) f.imm
  | .dstSrc mk => do
    unused f.off
    unused f.imm
    return mk (← wregOf f.dst) (← regOf f.src)
  | .dstOnly mk => do
    unused f.src
    unused f.off
    unused f.imm
    return mk (← wregOf f.dst)
  | .swap rows => do
    unused f.src
    unused f.off
    return (← select rows f.imm) (← wregOf f.dst)
  | .offOnly mk => do
    unused f.dst
    unused f.src
    unused f.imm
    return mk f.off
  | .cmpImm mk => do
    unused f.src
    return mk (← regOf f.dst) f.imm f.off
  | .cmpReg mk => do
    unused f.imm
    return mk (← regOf f.dst) (← regOf f.src) f.off
  | .call => decodeCall lcf f
  | .bare i => do
    unused f.dst
    unused f.src
    unused f.off
    unused f.imm
    return i
  | .load mk => do
    unused f.imm
    return mk (← wregOf f.dst) (← regOf f.src) f.off
  | .storeImm mk => do
    unused f.src
    return mk (← regOf f.dst) f.off f.imm
  | .storeReg mk => do
    unused f.imm
    return mk (← regOf f.dst) f.off (← regOf f.src)
  | .atomic rows => do
    match ← select rows f.imm with
    | .reading mk => return mk (← regOf f.dst) f.off (← regOf f.src)
    | .fetching mk => return mk (← regOf f.dst) f.off (← wregOf f.src)
  | .wide => decodeWide f next
  | .any mk => .ok (mk f.dst f.src f.off f.imm)

/-- Step (4) of R96: the instruction the fields select, or the reason there is none. -/
def decodeFields (lcf : LocalCallField) (f : Fields) (next : Option Fields) : Except DecodeError Instr :=
  match opcodeRows.lookup f.opcode with
  | some form => decodeForm lcf f next form
  | none => .error .reservedOpcode

/-- The decoder (R96): the instruction at the head of the program text, or the reason there is none. -/
def decode (e : Endian) (lcf : LocalCallField) : List Slot → Except DecodeError Instr
  | [] => .error .noSlot
  | w :: rest => decodeFields lcf (split e w) (rest.head?.map (split e))

/-- Steps (2) and (3) of R96: how many slots the instruction occupies, 2 for opcode 0x18 and else 1. -/
def Instr.slots : Instr → Nat
  | .lddw _ _ _ => 2
  | .ldMapFd _ _ => 2
  | .ldMapFdValue _ _ _ => 2
  | .ldVarAddr _ _ => 2
  | .ldCodeAddr _ _ => 2
  | .ldMapIdx _ _ => 2
  | .ldMapIdxValue _ _ _ => 2
  | _ => 1

/-- The instruction the host's table word stands for: bit 0 the least significant bit of the first slot's word
`W` (R108), the second slot from bit 64, every bit from `nbits` on 0, read as little-endian BPF with
`LOCAL_CALL_FIELD = offset` (the table's own masks; log 20). -/
def decodeTableWord (nbits w : Nat) : Option Instr :=
  let v := w % 2 ^ nbits
  (decode .little .offset [BitVec.ofNat 64 v, BitVec.ofNat 64 (v >>> 64)]).toOption

/-! ## The encoder -/

/-- A register number as a field. -/
def regBits {n : Nat} (r : Fin n) : BitVec 4 := BitVec.ofNat 4 r.val

/-- The fields of an instruction's first slot, unused ones 0: the columns `match` and `fields` of
spec/opcode_table.json (R108, R102). -/
def Instr.fields : Instr → Fields
  | .add64Imm dst imm => ⟨0x07#8, regBits dst, 0, 0, imm⟩
  | .add64Reg dst src => ⟨0x0f#8, regBits dst, regBits src, 0, 0⟩
  | .sub64Imm dst imm => ⟨0x17#8, regBits dst, 0, 0, imm⟩
  | .sub64Reg dst src => ⟨0x1f#8, regBits dst, regBits src, 0, 0⟩
  | .mul64Imm dst imm => ⟨0x27#8, regBits dst, 0, 0, imm⟩
  | .mul64Reg dst src => ⟨0x2f#8, regBits dst, regBits src, 0, 0⟩
  | .div64Imm dst imm => ⟨0x37#8, regBits dst, 0, 0, imm⟩
  | .div64Reg dst src => ⟨0x3f#8, regBits dst, regBits src, 0, 0⟩
  | .or64Imm dst imm => ⟨0x47#8, regBits dst, 0, 0, imm⟩
  | .or64Reg dst src => ⟨0x4f#8, regBits dst, regBits src, 0, 0⟩
  | .and64Imm dst imm => ⟨0x57#8, regBits dst, 0, 0, imm⟩
  | .and64Reg dst src => ⟨0x5f#8, regBits dst, regBits src, 0, 0⟩
  | .lsh64Imm dst imm => ⟨0x67#8, regBits dst, 0, 0, imm⟩
  | .lsh64Reg dst src => ⟨0x6f#8, regBits dst, regBits src, 0, 0⟩
  | .rsh64Imm dst imm => ⟨0x77#8, regBits dst, 0, 0, imm⟩
  | .rsh64Reg dst src => ⟨0x7f#8, regBits dst, regBits src, 0, 0⟩
  | .neg64 dst => ⟨0x87#8, regBits dst, 0, 0, 0⟩
  | .mod64Imm dst imm => ⟨0x97#8, regBits dst, 0, 0, imm⟩
  | .mod64Reg dst src => ⟨0x9f#8, regBits dst, regBits src, 0, 0⟩
  | .xor64Imm dst imm => ⟨0xa7#8, regBits dst, 0, 0, imm⟩
  | .xor64Reg dst src => ⟨0xaf#8, regBits dst, regBits src, 0, 0⟩
  | .mov64Imm dst imm => ⟨0xb7#8, regBits dst, 0, 0, imm⟩
  | .mov64Reg dst src => ⟨0xbf#8, regBits dst, regBits src, 0, 0⟩
  | .arsh64Imm dst imm => ⟨0xc7#8, regBits dst, 0, 0, imm⟩
  | .arsh64Reg dst src => ⟨0xcf#8, regBits dst, regBits src, 0, 0⟩
  | .add32Imm dst imm => ⟨0x04#8, regBits dst, 0, 0, imm⟩
  | .add32Reg dst src => ⟨0x0c#8, regBits dst, regBits src, 0, 0⟩
  | .sub32Imm dst imm => ⟨0x14#8, regBits dst, 0, 0, imm⟩
  | .sub32Reg dst src => ⟨0x1c#8, regBits dst, regBits src, 0, 0⟩
  | .mul32Imm dst imm => ⟨0x24#8, regBits dst, 0, 0, imm⟩
  | .mul32Reg dst src => ⟨0x2c#8, regBits dst, regBits src, 0, 0⟩
  | .div32Imm dst imm => ⟨0x34#8, regBits dst, 0, 0, imm⟩
  | .div32Reg dst src => ⟨0x3c#8, regBits dst, regBits src, 0, 0⟩
  | .or32Imm dst imm => ⟨0x44#8, regBits dst, 0, 0, imm⟩
  | .or32Reg dst src => ⟨0x4c#8, regBits dst, regBits src, 0, 0⟩
  | .and32Imm dst imm => ⟨0x54#8, regBits dst, 0, 0, imm⟩
  | .and32Reg dst src => ⟨0x5c#8, regBits dst, regBits src, 0, 0⟩
  | .lsh32Imm dst imm => ⟨0x64#8, regBits dst, 0, 0, imm⟩
  | .lsh32Reg dst src => ⟨0x6c#8, regBits dst, regBits src, 0, 0⟩
  | .rsh32Imm dst imm => ⟨0x74#8, regBits dst, 0, 0, imm⟩
  | .rsh32Reg dst src => ⟨0x7c#8, regBits dst, regBits src, 0, 0⟩
  | .neg32 dst => ⟨0x84#8, regBits dst, 0, 0, 0⟩
  | .mod32Imm dst imm => ⟨0x94#8, regBits dst, 0, 0, imm⟩
  | .mod32Reg dst src => ⟨0x9c#8, regBits dst, regBits src, 0, 0⟩
  | .xor32Imm dst imm => ⟨0xa4#8, regBits dst, 0, 0, imm⟩
  | .xor32Reg dst src => ⟨0xac#8, regBits dst, regBits src, 0, 0⟩
  | .mov32Imm dst imm => ⟨0xb4#8, regBits dst, 0, 0, imm⟩
  | .mov32Reg dst src => ⟨0xbc#8, regBits dst, regBits src, 0, 0⟩
  | .arsh32Imm dst imm => ⟨0xc4#8, regBits dst, 0, 0, imm⟩
  | .arsh32Reg dst src => ⟨0xcc#8, regBits dst, regBits src, 0, 0⟩
  | .le16 dst => ⟨0xd4#8, regBits dst, 0, 0, 0x10#32⟩
  | .le32 dst => ⟨0xd4#8, regBits dst, 0, 0, 0x20#32⟩
  | .le64 dst => ⟨0xd4#8, regBits dst, 0, 0, 0x40#32⟩
  | .be16 dst => ⟨0xdc#8, regBits dst, 0, 0, 0x10#32⟩
  | .be32 dst => ⟨0xdc#8, regBits dst, 0, 0, 0x20#32⟩
  | .be64 dst => ⟨0xdc#8, regBits dst, 0, 0, 0x40#32⟩
  | .ja off => ⟨0x05#8, 0, 0, off, 0⟩
  | .jeqImm dst imm off => ⟨0x15#8, regBits dst, 0, off, imm⟩
  | .jeqReg dst src off => ⟨0x1d#8, regBits dst, regBits src, off, 0⟩
  | .jgtImm dst imm off => ⟨0x25#8, regBits dst, 0, off, imm⟩
  | .jgtReg dst src off => ⟨0x2d#8, regBits dst, regBits src, off, 0⟩
  | .jgeImm dst imm off => ⟨0x35#8, regBits dst, 0, off, imm⟩
  | .jgeReg dst src off => ⟨0x3d#8, regBits dst, regBits src, off, 0⟩
  | .jsetImm dst imm off => ⟨0x45#8, regBits dst, 0, off, imm⟩
  | .jsetReg dst src off => ⟨0x4d#8, regBits dst, regBits src, off, 0⟩
  | .jneImm dst imm off => ⟨0x55#8, regBits dst, 0, off, imm⟩
  | .jneReg dst src off => ⟨0x5d#8, regBits dst, regBits src, off, 0⟩
  | .jsgtImm dst imm off => ⟨0x65#8, regBits dst, 0, off, imm⟩
  | .jsgtReg dst src off => ⟨0x6d#8, regBits dst, regBits src, off, 0⟩
  | .jsgeImm dst imm off => ⟨0x75#8, regBits dst, 0, off, imm⟩
  | .jsgeReg dst src off => ⟨0x7d#8, regBits dst, regBits src, off, 0⟩
  | .jltImm dst imm off => ⟨0xa5#8, regBits dst, 0, off, imm⟩
  | .jltReg dst src off => ⟨0xad#8, regBits dst, regBits src, off, 0⟩
  | .jleImm dst imm off => ⟨0xb5#8, regBits dst, 0, off, imm⟩
  | .jleReg dst src off => ⟨0xbd#8, regBits dst, regBits src, off, 0⟩
  | .jsltImm dst imm off => ⟨0xc5#8, regBits dst, 0, off, imm⟩
  | .jsltReg dst src off => ⟨0xcd#8, regBits dst, regBits src, off, 0⟩
  | .jsleImm dst imm off => ⟨0xd5#8, regBits dst, 0, off, imm⟩
  | .jsleReg dst src off => ⟨0xdd#8, regBits dst, regBits src, off, 0⟩
  | .jeq32Imm dst imm off => ⟨0x16#8, regBits dst, 0, off, imm⟩
  | .jeq32Reg dst src off => ⟨0x1e#8, regBits dst, regBits src, off, 0⟩
  | .jgt32Imm dst imm off => ⟨0x26#8, regBits dst, 0, off, imm⟩
  | .jgt32Reg dst src off => ⟨0x2e#8, regBits dst, regBits src, off, 0⟩
  | .jge32Imm dst imm off => ⟨0x36#8, regBits dst, 0, off, imm⟩
  | .jge32Reg dst src off => ⟨0x3e#8, regBits dst, regBits src, off, 0⟩
  | .jset32Imm dst imm off => ⟨0x46#8, regBits dst, 0, off, imm⟩
  | .jset32Reg dst src off => ⟨0x4e#8, regBits dst, regBits src, off, 0⟩
  | .jne32Imm dst imm off => ⟨0x56#8, regBits dst, 0, off, imm⟩
  | .jne32Reg dst src off => ⟨0x5e#8, regBits dst, regBits src, off, 0⟩
  | .jsgt32Imm dst imm off => ⟨0x66#8, regBits dst, 0, off, imm⟩
  | .jsgt32Reg dst src off => ⟨0x6e#8, regBits dst, regBits src, off, 0⟩
  | .jsge32Imm dst imm off => ⟨0x76#8, regBits dst, 0, off, imm⟩
  | .jsge32Reg dst src off => ⟨0x7e#8, regBits dst, regBits src, off, 0⟩
  | .jlt32Imm dst imm off => ⟨0xa6#8, regBits dst, 0, off, imm⟩
  | .jlt32Reg dst src off => ⟨0xae#8, regBits dst, regBits src, off, 0⟩
  | .jle32Imm dst imm off => ⟨0xb6#8, regBits dst, 0, off, imm⟩
  | .jle32Reg dst src off => ⟨0xbe#8, regBits dst, regBits src, off, 0⟩
  | .jslt32Imm dst imm off => ⟨0xc6#8, regBits dst, 0, off, imm⟩
  | .jslt32Reg dst src off => ⟨0xce#8, regBits dst, regBits src, off, 0⟩
  | .jsle32Imm dst imm off => ⟨0xd6#8, regBits dst, 0, off, imm⟩
  | .jsle32Reg dst src off => ⟨0xde#8, regBits dst, regBits src, off, 0⟩
  | .callHelper id => ⟨0x85#8, 0, 0, 0, id⟩
  | .callLocal off imm => ⟨0x85#8, 0, 1, off, imm⟩
  | .callPlatform id => ⟨0x85#8, 0, 2, 0, id⟩
  | .exit => ⟨0x95#8, 0, 0, 0, 0⟩
  | .ldxw dst src off => ⟨0x61#8, regBits dst, regBits src, off, 0⟩
  | .ldxh dst src off => ⟨0x69#8, regBits dst, regBits src, off, 0⟩
  | .ldxb dst src off => ⟨0x71#8, regBits dst, regBits src, off, 0⟩
  | .ldxdw dst src off => ⟨0x79#8, regBits dst, regBits src, off, 0⟩
  | .stw dst off imm => ⟨0x62#8, regBits dst, 0, off, imm⟩
  | .sth dst off imm => ⟨0x6a#8, regBits dst, 0, off, imm⟩
  | .stb dst off imm => ⟨0x72#8, regBits dst, 0, off, imm⟩
  | .stdw dst off imm => ⟨0x7a#8, regBits dst, 0, off, imm⟩
  | .stxw dst off src => ⟨0x63#8, regBits dst, regBits src, off, 0⟩
  | .stxh dst off src => ⟨0x6b#8, regBits dst, regBits src, off, 0⟩
  | .stxb dst off src => ⟨0x73#8, regBits dst, regBits src, off, 0⟩
  | .stxdw dst off src => ⟨0x7b#8, regBits dst, regBits src, off, 0⟩
  | .atomicAdd32 dst off src => ⟨0xc3#8, regBits dst, regBits src, off, 0x00#32⟩
  | .atomicFetchAdd32 dst off src => ⟨0xc3#8, regBits dst, regBits src, off, 0x01#32⟩
  | .atomicOr32 dst off src => ⟨0xc3#8, regBits dst, regBits src, off, 0x40#32⟩
  | .atomicFetchOr32 dst off src => ⟨0xc3#8, regBits dst, regBits src, off, 0x41#32⟩
  | .atomicAnd32 dst off src => ⟨0xc3#8, regBits dst, regBits src, off, 0x50#32⟩
  | .atomicFetchAnd32 dst off src => ⟨0xc3#8, regBits dst, regBits src, off, 0x51#32⟩
  | .atomicXor32 dst off src => ⟨0xc3#8, regBits dst, regBits src, off, 0xa0#32⟩
  | .atomicFetchXor32 dst off src => ⟨0xc3#8, regBits dst, regBits src, off, 0xa1#32⟩
  | .atomicXchg32 dst off src => ⟨0xc3#8, regBits dst, regBits src, off, 0xe1#32⟩
  | .atomicCmpxchg32 dst off src => ⟨0xc3#8, regBits dst, regBits src, off, 0xf1#32⟩
  | .atomicAdd64 dst off src => ⟨0xdb#8, regBits dst, regBits src, off, 0x00#32⟩
  | .atomicFetchAdd64 dst off src => ⟨0xdb#8, regBits dst, regBits src, off, 0x01#32⟩
  | .atomicOr64 dst off src => ⟨0xdb#8, regBits dst, regBits src, off, 0x40#32⟩
  | .atomicFetchOr64 dst off src => ⟨0xdb#8, regBits dst, regBits src, off, 0x41#32⟩
  | .atomicAnd64 dst off src => ⟨0xdb#8, regBits dst, regBits src, off, 0x50#32⟩
  | .atomicFetchAnd64 dst off src => ⟨0xdb#8, regBits dst, regBits src, off, 0x51#32⟩
  | .atomicXor64 dst off src => ⟨0xdb#8, regBits dst, regBits src, off, 0xa0#32⟩
  | .atomicFetchXor64 dst off src => ⟨0xdb#8, regBits dst, regBits src, off, 0xa1#32⟩
  | .atomicXchg64 dst off src => ⟨0xdb#8, regBits dst, regBits src, off, 0xe1#32⟩
  | .atomicCmpxchg64 dst off src => ⟨0xdb#8, regBits dst, regBits src, off, 0xf1#32⟩
  | .lddw dst imm _ => ⟨0x18#8, regBits dst, 0, 0, imm⟩
  | .ldMapFd dst imm => ⟨0x18#8, regBits dst, 1, 0, imm⟩
  | .ldMapFdValue dst imm _ => ⟨0x18#8, regBits dst, 2, 0, imm⟩
  | .ldVarAddr dst imm => ⟨0x18#8, regBits dst, 3, 0, imm⟩
  | .ldCodeAddr dst imm => ⟨0x18#8, regBits dst, 4, 0, imm⟩
  | .ldMapIdx dst imm => ⟨0x18#8, regBits dst, 5, 0, imm⟩
  | .ldMapIdxValue dst imm _ => ⟨0x18#8, regBits dst, 6, 0, imm⟩
  | .ldabsw dst src off imm => ⟨0x20#8, dst, src, off, imm⟩
  | .ldabsh dst src off imm => ⟨0x28#8, dst, src, off, imm⟩
  | .ldabsb dst src off imm => ⟨0x30#8, dst, src, off, imm⟩
  | .ldabsdw dst src off imm => ⟨0x38#8, dst, src, off, imm⟩
  | .ldindw dst src off imm => ⟨0x40#8, dst, src, off, imm⟩
  | .ldindh dst src off imm => ⟨0x48#8, dst, src, off, imm⟩
  | .ldindb dst src off imm => ⟨0x50#8, dst, src, off, imm⟩
  | .ldinddw dst src off imm => ⟨0x58#8, dst, src, off, imm⟩

/-- The fields of a wide instruction's second slot (R87): `next_imm`, and every other field 0. -/
def Instr.nextFields : Instr → Option Fields
  | .lddw _ _ nextImm => some ⟨0, 0, 0, 0, nextImm⟩
  | .ldMapFd _ _ => some ⟨0, 0, 0, 0, 0⟩
  | .ldMapFdValue _ _ nextImm => some ⟨0, 0, 0, 0, nextImm⟩
  | .ldVarAddr _ _ => some ⟨0, 0, 0, 0, 0⟩
  | .ldCodeAddr _ _ => some ⟨0, 0, 0, 0, 0⟩
  | .ldMapIdx _ _ => some ⟨0, 0, 0, 0, 0⟩
  | .ldMapIdxValue _ _ nextImm => some ⟨0, 0, 0, 0, nextImm⟩
  | _ => none

/-- The slots of an instruction in a byte order. -/
def encode (e : Endian) (i : Instr) : List Slot :=
  match i.nextFields with
  | none => [join e i.fields]
  | some g => [join e i.fields, join e g]

end Sys2Proof
end

