-- ==== Sys2Proof/Machine/State.lean ====
section
/-! DEFINITION. The state of the machine (spec/10_state.md), the reasons a step stops, and the state at reset. -/

namespace Sys2Proof.Machine

/-- A register: its 64 bits and its definedness mark (spec/10_state.md R20, R24). The bits of a register
marked undefined are read by no instruction. -/
structure RegVal where
  val : Word
  defd : Bool
deriving DecidableEq, Repr

/-- The eleven registers R0 to R10 (spec/10_state.md R20). -/
abbrev RegFile := Vector RegVal 11

/-- One record of the hidden call stack (spec/10_state.md R33): the return position and the caller's R6 to
R10 with their marks. `birth` is the model's own: when the callee's frame came into being (log 6). -/
structure CallRecord where
  retPc : Nat
  saved6 : RegVal
  saved7 : RegVal
  saved8 : RegVal
  saved9 : RegVal
  saved10 : RegVal
  birth : Nat
deriving DecidableEq, Repr

/-- The seven kinds of the spec's faults with the information each records (spec/60_exceptions.md R402); that a
helper's is a natural number is the model's choice (log 26). -/
inductive FaultKind where
  | pcOutOfRange (pc : Nat)
  | illegalInstruction (pc : Nat)
  | uninitRegister (i : Reg)
  | callDepth (pc : Nat)
  | misaligned (addr : Word)
  | memAccess (addr : Word)
  | helperFault (info : Nat)
deriving DecidableEq, Repr

/-- The run status (spec/10_state.md R35). -/
inductive RunStatus where
  | running
  | exited (v : Word)
  | faulted (kind : FaultKind)
deriving DecidableEq, Repr

/-- Data memory: the bytes that have been written, at strictly rising addresses. An unlisted byte has not
been written, and holds a drawn value if a region covers it (spec/20_memory.md R57, R67; log 18). -/
abbrev Memory := List Host.Cell

/-- What other agents are going to write to shared regions, at any moment of the run (spec/20_memory.md R62 (b),
spec/70_reset_and_hazards.md R454; log 8): nothing any more; or free writes before every instruction from moment number
`moment` on, without end; or the writes `cells` before the next instruction, and then what `later` says. -/
inductive OtherAgents where
  | silent
  | free (moment : Nat)
  | batch (cells : List Host.Cell) (later : OtherAgents)
deriving DecidableEq, Repr

/-- Everything the spec gives the machine (spec/10_state.md), with its parameters, which no step changes,
and the model's own `env` (log 8) and `draws` (log 7). -/
structure State where
  /-- R0 to R10 with their marks (spec/10_state.md R20, R24). -/
  regs : RegFile
  /-- The slot index of the instruction being executed (spec/10_state.md R25). -/
  pc : Nat
  /-- The program text, `PROG` (spec/10_state.md R32). -/
  prog : List Slot
  /-- The hidden call stack, the latest call first (spec/10_state.md R33). -/
  frames : List CallRecord
  /-- Data memory (spec/10_state.md R30). -/
  mem : Memory
  /-- The run status (spec/10_state.md R35). -/
  status : RunStatus
  /-- The parameters of spec/00_scope.md R9. -/
  cfg : Config
  /-- What other agents will write to shared regions (spec/20_memory.md R62, spec/70_reset_and_hazards.md R454). -/
  env : OtherAgents
  /-- The number of the next draw (spec/70_reset_and_hazards.md R456). -/
  draws : Nat
deriving DecidableEq, Repr

/-- Why `step` has no next state, where the spec says there is none. The spec's own faults are not here:
they are next states whose status is `faulted` (spec/10_state.md R35; log 5). -/
inductive Fault where
  /-- Raised by `step` on a run that is over: "Only `running` has a next step" (spec/10_state.md R35,
  spec/60_exceptions.md R403). Safe: the spec gives no step here. -/
  | runOver
deriving DecidableEq, Repr

/-- The refusals of spec/60_exceptions.md R405, each naming its slot; `launch` gives them (which
one, of a program with several defects: log 25), and an instruction of an unchecked program that the spec gives no
effect (log 11). -/
inductive Refusal where
  /-- An instruction whose meaning is not written; raised by an arm of `exec`. Safe. No arm does. -/
  | notModelled (mnemonic : String)
  /-- `Empty`: the program has no slot; raised by `launch`. Safe. -/
  | empty
  /-- `NotAnInstruction`; raised by `launch`. Safe: D3 and D4 err toward unprovable. -/
  | notAnInstruction (slot : Nat)
  /-- `BadTarget`; raised by `launch`, and by a jump, BPF-local call or `ld_code_addr` of an unchecked
  program whose target lies before slot 0. Safe: R109 (3) to (5) refuse such a program. -/
  | badTarget (slot : Nat)
  /-- `UnknownHelper`; raised by `launch`, and by a helper call of an unchecked program. Safe: R109 (6)
  refuses such a program. -/
  | unknownHelper (slot : Nat)
  /-- `Unsupported`; raised by `launch`, and by a map or variable load of an unchecked program. Safe:
  R109 (7) refuses such a program. -/
  | unsupported (slot : Nat)
  /-- `Legacy`; raised by `launch` and by the eight legacy packet loads. Safe: the spec gives them no
  effect (spec/49_legacy_packet.md R371). -/
  | legacy (slot : Nat)
  /-- `ShiftRange`; raised by `launch`, and by a shift whose amount is out of range with
  `SHIFT_POLICY = refuse`: no successor state (spec/40_alu64.md R123, spec/41_alu32.md R163). Safe. -/
  | shiftRange (slot : Nat)
deriving DecidableEq, Repr

/-- What a meaning answers. -/
abbrev Result := Host.Outcome State Fault Refusal

/-- A register marked undefined whose bits are 0, which no read returns (DESIGN CHOICE, unsafe: log 1). -/
def RegVal.blank : RegVal := ⟨0, false⟩

/-- The machine at entry (spec/70_reset_and_hazards.md R441) in the configuration of the spec's test
vectors, with no program loaded (DESIGN CHOICE, unsafe: log 1, log 2, log 3). -/
def State.reset : State where
  regs := #v[.blank, .blank, .blank, .blank, .blank, .blank, .blank, .blank, .blank, .blank, ⟨0x10000, true⟩]
  pc := 0
  prog := []
  frames := []
  mem := []
  status := .running
  cfg := .testVectors
  env := .silent
  draws := 1

end Sys2Proof.Machine
end

