-- ==== Sys2Proof/Machine/Memory.lean ====
section
/-! DEFINITION. Data memory: bytes, the regions a run may access, and the primitives `MemRead`, `MemWrite` and
`AtomicRMW` without their faults (spec/20_memory.md R54, R57, R58, R62, R67). -/

namespace Sys2Proof.Machine

/-! ## Bytes -/

/-- The canonical form: addresses strictly rising, inside the 64-bit space. No listed byte equals what an
unlisted address holds, since an unlisted address holds none (log 18). -/
abbrev Memory.wf (m : Memory) : Prop :=
  (m.map Prod.fst).Pairwise (· < ·) ∧ ∀ c ∈ m, c.1 < 2 ^ 64

/-- The byte last written at an address, or none where nothing has been written (R57 step (3), R67). -/
def Memory.get? (m : Memory) (a : Nat) : Option Byte := m.lookup a

/-- Write one byte. -/
def Memory.put : Memory → Nat → Byte → Memory
  | [], a, b => [(a, b)]
  | c :: m, a, b =>
    if a < c.1 then (a, b) :: c :: m
    else if a = c.1 then (a, b) :: m
    else c :: Memory.put m a b

/-- Write bytes at rising addresses (R58). -/
def Memory.putBytes (m : Memory) (a : Nat) : List Byte → Memory
  | [] => m
  | b :: bs => Memory.putBytes (m.put a b) (a + 1) bs

/-- Write single bytes, one after another. -/
def Memory.putCells (m : Memory) : List Host.Cell → Memory
  | [] => m
  | c :: cs => Memory.putCells (m.put c.1 c.2) cs

/-- Make every byte of a range one that nothing has written: a fresh frame, or one that is gone
(spec/10_state.md R31, spec/45_call_exit.md R282). -/
def Memory.forget (m : Memory) (base len : Nat) : Memory :=
  m.filter fun c => !(decide (base ≤ c.1) && decide (c.1 < base + len))

/-! ## Regions -/

/-- What an access needs of its region (R57, R58). -/
inductive Access where
  | read
  | write
  | rmw
deriving DecidableEq, Repr

/-- The permission an access needs: readable, writable, or both (R57, R58). -/
def Region.allows (r : Region) : Access → Bool
  | .read => r.readable
  | .write => r.writable
  | .rmw => r.readable && r.writable

/-- All `n` bytes from `a` lie in the region (R54). -/
def Region.covers (r : Region) (a n : Nat) : Bool :=
  decide (r.base ≤ a) && decide (a + n ≤ r.base + r.len)

/-- `frame_base(d)` (spec/10_state.md R31). -/
def Config.frameBase (cfg : Config) : Nat → Nat
  | 0 => cfg.frameBase0
  | d + 1 => cfg.calleeFrames.getD d 0

/-- `MAX_CALL_DEPTH`: there is a frame address for every depth a call may reach (log 15). -/
def Config.maxCallDepth (cfg : Config) : Nat := cfg.calleeFrames.length

/-- The value of R10 at a call depth: one past the frame's highest byte (spec/10_state.md R31). -/
def Config.frameTop (cfg : Config) (d : Nat) : Word := BitVec.ofNat 64 (Config.frameBase cfg d + cfg.stackSize)

/-- The region of the frame of a call depth: private, readable, writable (spec/10_state.md R31). -/
def Config.frameRegion (cfg : Config) (d : Nat) : Region := ⟨Config.frameBase cfg d, cfg.stackSize, true, true, false⟩

/-- The frames of the active call depths, the deepest first (R54). -/
def frameRegions (cfg : Config) : List CallRecord → List LiveRegion
  | [] => [⟨Config.frameRegion cfg 0, 0⟩]
  | r :: rest => ⟨Config.frameRegion cfg (rest.length + 1), r.birth⟩ :: frameRegions cfg rest

/-- The region holds the value area of a map that has `mva` (spec/48_imm64.md R357). -/
def Config.isValueArea (cfg : Config) (r : Region) : Bool :=
  cfg.mapsSupported && cfg.mva.any fun p => Region.covers r p.2.toNat 1

/-- What the environment lists in `REGIONS` (R54); a listed value area of a map is a shared region
(spec/48_imm64.md R357), whatever its entry says (log 16). -/
def Config.dataRegions (cfg : Config) : List Region :=
  cfg.regions.map fun q => { q with shared := q.shared || Config.isValueArea cfg q }

/-- `REGIONS` now: what the environment lists, and the frame of every active call depth (R54). -/
def State.live (s : State) : List LiveRegion :=
  (Config.dataRegions s.cfg).map (⟨·, 0⟩) ++ frameRegions s.cfg s.frames

/-- The region that holds all `n` bytes from `a` with the needed permission; none also where
`a + n > 2^64` (R57 step (2)). -/
def State.region? (s : State) (need : Access) (a : Word) (n : Nat) : Option LiveRegion :=
  s.live.find? fun lr =>
    Region.allows lr.region need && Region.covers lr.region a.toNat n && decide (a.toNat + n ≤ 2 ^ 64)

/-- The byte at an address of a region: the one last written, else the region's drawn byte (R57, R67). -/
def State.byteIn (s : State) (lr : LiveRegion) (a : Nat) : Byte :=
  (s.mem.get? a).getD (Config.freeByte lr.birth a)

/-- The byte of data memory at an address, none where no region lies. -/
def State.byteAt (s : State) (a : Nat) : Option Byte :=
  (s.live.find? fun lr => Region.covers lr.region a 1).map fun lr => s.byteIn lr a

/-- The `n` bytes from `a` in a region. -/
def State.bytesIn (s : State) (lr : LiveRegion) (a : Nat) : Nat → List Byte
  | 0 => []
  | n + 1 => s.byteIn lr a :: State.bytesIn s lr (a + 1) n

/-! ## What acts on memory from outside -/

/-- A byte another agent may write: of a shared region (R62 (b)). -/
def State.sharedByte (s : State) (a : Nat) : Bool :=
  decide (a < 2 ^ 64) && s.live.any fun lr => lr.region.shared && Region.covers lr.region a 1

/-- A byte a helper may change: of a writable region (spec/45_call_exit.md R278). -/
def State.writableByte (s : State) (a : Nat) : Bool :=
  decide (a < 2 ^ 64) && s.live.any fun lr => lr.region.writable && Region.covers lr.region a 1

/-- Writes of other agents land in the shared regions, one after another (R62 (b)). -/
def State.land (s : State) (cells : List Host.Cell) : State :=
  { s with mem := s.mem.putCells (cells.filter fun c => s.sharedByte c.1) }

/-- What other agents write before the next instruction. -/
def OtherAgents.now : OtherAgents → List Host.Cell
  | .silent => []
  | .free moment => Config.freeBatch moment
  | .batch cells _ => cells

/-- What other agents are going to write after that. -/
def OtherAgents.next : OtherAgents → OtherAgents
  | .silent => .silent
  | .free moment => .free (moment + 1)
  | .batch _ later => later

/-- Other agents act: their writes before the next instruction land (R62 (b), spec/60_exceptions.md R421; log 8). -/
def State.takeEnv (s : State) : State := { s.land s.env.now with env := s.env.next }

/-- The state in which the first `k` of those writes have landed: what a misaligned access may meet between its bytes
(R59, R62 (b); log 8). -/
def State.midway (s : State) (k : Nat) : State := s.land (s.env.now.take k)

/-! ## Values -/

/-- An access of `n` bytes at an address that is no multiple of `n` (R53). -/
def misaligned (a : Word) (n : Nat) : Bool := decide (a.toNat % n ≠ 0)

/-- The value of the `n` bytes at `a` in the byte order of the machine, widened with zeros (R57 step (4), R56). -/
def State.valueAt (s : State) (lr : LiveRegion) (a : Word) (n : Nat) : Word :=
  ofBytes s.cfg.endian (s.bytesIn lr a.toNat n)

/-- The `n` bytes from `a` as a misaligned read of a shared region sees them: each holds the last write to it at the
moment it is read (R62 (c)). The moments are free: other agents may write between the bytes (R59; log 8). -/
def State.seenBytes (s : State) (lr : LiveRegion) (a n : Nat) : List Byte :=
  (List.range n).map fun i => (s.midway (Config.seenAfter s.draws i)).byteIn lr (a + i)

/-- What a read of `n` bytes at `a` returns, and the state after it (R57 steps (3), (4), R62): of a shared region a draw
with `SHARED_MODEL = havoc`; the last write to each byte with `sc`, read at one moment where the access is aligned (R59). -/
def State.load (s : State) (lr : LiveRegion) (a : Word) (n : Nat) : Word × State :=
  if lr.region.shared && decide (s.cfg.sharedModel = .havoc) then
    (truncBytes n (Config.havocValue s.draws), { s with draws := s.draws + 1 })
  else if lr.region.shared && misaligned a n then
    (ofBytes s.cfg.endian (s.seenBytes lr a.toNat n), { s with draws := s.draws + 1 })
  else (s.valueAt lr a n, s)

/-- The `n` bytes at `a` become the low `8n` bits of a value in the byte order of the machine (R58). -/
def State.store (s : State) (a : Word) (n : Nat) (v : Word) : State :=
  { s with mem := s.mem.putBytes a.toNat (toBytes s.cfg.endian n v) }

end Sys2Proof.Machine
end

