-- ==== Sys2Proof/Machine/Operands.lean ====
section
/-! DEFINITION. Operands and the arithmetic on them: addresses, targets, shift amounts, byte order conversions
(spec/30_encoding.md R98, R104, R105). Immediates and halves are `sext64`, `low32`, `zext64` of Machine/Bits. -/

namespace Sys2Proof.Machine

/-- The effective address `(x[base] + sext_64(offset)) mod 2^64` (spec/20_memory.md R50). -/
def effAddr (base : Word) (off : Off) : Word := base + sextOff off

/-- `pc + 1 + displacement` in slots (spec/10_state.md R26, spec/43_jump64.md R211); none where it lies before
slot 0, which no checked program holds (log 11). -/
def target? (pc : Nat) (disp : Int) : Option Nat :=
  if 0 ≤ (pc : Int) + 1 + disp then some ((pc : Int) + 1 + disp).toNat else none

/-- The displacement of a BPF-local call (spec/45_call_exit.md R281). -/
def callDisp (lcf : LocalCallField) (off : Off) (imm : Imm) : Int :=
  match lcf with
  | .offset => off.toInt
  | .imm => imm.toInt

/-- Unsigned quotient, 0 for a zero divisor (spec/40_alu64.md R122, spec/41_alu32.md R162). -/
def divOrZero {w : Nat} (a b : BitVec w) : BitVec w := if b = 0 then 0 else a / b

/-- Unsigned remainder, the dividend for a zero divisor (spec/40_alu64.md R122, spec/41_alu32.md R162). -/
def modOrKeep {w : Nat} (a b : BitVec w) : BitVec w := if b = 0 then a else a % b

/-- The shift amount a second operand of the width gives: taken modulo the width with `SHIFT_POLICY = mask`; with
`refuse`, none where it is the width or more (spec/40_alu64.md R123, spec/41_alu32.md R163). -/
def shiftAmount? (policy : ShiftPolicy) {w : Nat} (b : BitVec w) : Option Nat :=
  match policy with
  | .mask => some (b.toNat % w)
  | .refuse => if b.toNat < w then some b.toNat else none

/-- The number `n`, or the greatest one below it that is not among `used`; 0 where all are. -/
def unusedFrom (used : List Word) : Nat → Word
  | 0 => 0
  | n + 1 => if BitVec.ofNat 64 (n + 1) ∈ used then unusedFrom used n else BitVec.ofNat 64 (n + 1)

/-- The wanted address, or one that is not among `used` where it is. -/
def freshAddr (used : List Word) (want : Word) : Word := if want ∈ used then unusedFrom used used.length else want

/-- The address the platform states for a slot, else a free value (spec/48_imm64.md R359; log 10). -/
def wantedCodeAddr (cfg : Config) (slot : Nat) : Word := (cfg.codeAddr[slot]?).getD (Config.freeCodeAddr cfg slot)

/-- `code_addr` of the slots below `n`, the highest slot first, each different from those below it. -/
def codeAddrs (cfg : Config) : Nat → List Word
  | 0 => []
  | n + 1 => freshAddr (codeAddrs cfg n) (wantedCodeAddr cfg n) :: codeAddrs cfg n

/-- `code_addr` of a slot of a program of `size` slots, an injective function of the slot (spec/48_imm64.md R359; log
10). At or past the end, where no checked program has a slot, it is the address wanted (log 11). -/
def codeAddrOf (cfg : Config) (size slot : Nat) : Word :=
  if slot < size then freshAddr (codeAddrs cfg slot) (wantedCodeAddr cfg slot) else wantedCodeAddr cfg slot

/-- `htole16`, `htole32`, `htole64` or `htobe…` of a value, whose target byte order is `wanted`
(spec/42_byteswap.md R196): `bswap` where host and target differ. -/
def toOrder {w : Nat} (host wanted : Endian) (bswap : BitVec w → BitVec w) (v : BitVec w) : BitVec w :=
  if host = wanted then v else bswap v

end Sys2Proof.Machine
end

