-- ==== Sys2Proof/Machine/Flags.lean ====
section
/-! DEFINITION. The conditions of the conditional jumps. The machine has no flags (spec/10_state.md R27): each
conditional jump compares its two operands itself (spec/43_jump64.md R212, spec/44_jump32.md R246). -/

namespace Sys2Proof.Machine

variable {w : Nat}

/-- BPF_JEQ. -/
def condEq (a b : BitVec w) : Bool := a == b

/-- BPF_JNE. -/
def condNe (a b : BitVec w) : Bool := !(a == b)

/-- BPF_JSET: some bit is set in both. -/
def condSet (a b : BitVec w) : Bool := !(a &&& b == 0#w)

/-- BPF_JGT, unsigned. -/
def condGt (a b : BitVec w) : Bool := decide (b.toNat < a.toNat)

/-- BPF_JGE, unsigned. -/
def condGe (a b : BitVec w) : Bool := decide (b.toNat ≤ a.toNat)

/-- BPF_JLT, unsigned. -/
def condLt (a b : BitVec w) : Bool := decide (a.toNat < b.toNat)

/-- BPF_JLE, unsigned. -/
def condLe (a b : BitVec w) : Bool := decide (a.toNat ≤ b.toNat)

/-- BPF_JSGT, signed. -/
def condSgt (a b : BitVec w) : Bool := decide (b.toInt < a.toInt)

/-- BPF_JSGE, signed. -/
def condSge (a b : BitVec w) : Bool := decide (b.toInt ≤ a.toInt)

/-- BPF_JSLT, signed. -/
def condSlt (a b : BitVec w) : Bool := decide (a.toInt < b.toInt)

/-- BPF_JSLE, signed. -/
def condSle (a b : BitVec w) : Bool := decide (a.toInt ≤ b.toInt)

end Sys2Proof.Machine
end

