-- ==== Sys2Proof/Machine/Ops.lean ====
section
/-! DEFINITION. The named operations over the state: taking a fault, registers, memory accesses, jumps, calls and
returns, helper calls. Each is written in the order of checks the spec gives (spec/60_exceptions.md R414): registers,
call depth, alignment, region, helper. -/

namespace Sys2Proof.Machine

/-! ## Faults -/

/-- `raise Fault(kind, info)`: the run ends in `faulted(kind, info)` and nothing else changes; there is no
handler and no return (spec/60_exceptions.md R404, R416, R417). The one way this machine takes an exception. -/
def State.raise (s : State) (kind : FaultKind) : Result := .next { s with status := .faulted kind }

/-! ## Registers -/

/-- The register and its mark. -/
def State.reg (s : State) (i : Reg) : RegVal := s.regs[i]

/-- `x[i] <- v`: a write makes the register defined (spec/00_scope.md R6). -/
def State.setReg (s : State) (i : WReg) (v : Word) : State :=
  { s with regs := s.regs.set i.val ⟨v, true⟩ (by omega) }

/-- Mark the registers `p` chooses undefined; their bits stay and no read returns them (spec/10_state.md R24; log 14). -/
def RegFile.undefine (p : Reg → Bool) (r : RegFile) : RegFile :=
  Vector.ofFn fun i => if p i then { r[i] with defd := false } else r[i]

/-- R1 to R5 (spec/10_state.md R21). -/
def isArg (i : Reg) : Bool := decide (1 ≤ i.val) && decide (i.val ≤ 5)

/-- R0 and R6 to R9, which a BPF-local function finds undefined (spec/45_call_exit.md R286). -/
def isFresh (i : Reg) : Bool := decide (i.val = 0) || (decide (6 ≤ i.val) && decide (i.val ≤ 9))

/-- `x[i]`: read a register, or fault where it is undefined (spec/00_scope.md R6, spec/60_exceptions.md R406). -/
def State.withReg (s : State) (i : Reg) (k : Word → Result) : Result :=
  if (s.reg i).defd then k (s.reg i).val else s.raise (.uninitRegister i)

/-- Read registers in order. -/
def State.withRegs (s : State) : List Reg → (List Word → Result) → Result
  | [], k => k []
  | i :: is, k => s.withReg i fun a => State.withRegs s is fun as => k (a :: as)

/-! ## The program counter -/

/-- `pc <- pc + n` (spec/10_state.md R26). -/
def State.advance (s : State) (n : Nat) : State := { s with pc := s.pc + n }

/-- `pc <- pc + 1 + displacement` (spec/43_jump64.md R211); refused where that lies before slot 0, in a program
that R109 (3) refuses (log 11). -/
def State.jump (s : State) (disp : Int) : Result :=
  match target? s.pc disp with
  | some t => .next { s with pc := t }
  | none => .refused (.badTarget s.pc)

/-- `if cond then pc <- pc + 1 + sext_64(offset) else pc <- pc + 1` (spec/43_jump64.md R210). -/
def State.branch (s : State) (cond : Bool) (off : Off) : Result :=
  if cond then s.jump off.toInt else .next (s.advance 1)

/-- Shift by the amount the policy gives, or no successor state (spec/40_alu64.md R123; log 12). -/
def State.withShift (s : State) {w : Nat} (b : BitVec w) (k : Nat → Result) : Result :=
  match shiftAmount? s.cfg.shiftPolicy b with
  | some n => k n
  | none => .refused (.shiftRange s.pc)

/-! ## Memory accesses -/

/-- `MemRead(addr, n)` with its faults, in their order (spec/20_memory.md R57). -/
def State.memRead (s : State) (a : Word) (n : Nat) (k : Word → State → Result) : Result :=
  if s.cfg.alignPolicy = .fault ∧ misaligned a n then s.raise (.misaligned a)
  else
    match s.region? .read a n with
    | none => s.raise (.memAccess a)
    | some lr => k (s.load lr a n).1 (s.load lr a n).2

/-- `MemWrite(addr, n, v)` with its faults, in their order (spec/20_memory.md R58). -/
def State.memWrite (s : State) (a : Word) (n : Nat) (v : Word) (k : State → Result) : Result :=
  if s.cfg.alignPolicy = .fault ∧ misaligned a n then s.raise (.misaligned a)
  else
    match s.region? .write a n with
    | none => s.raise (.memAccess a)
    | some _ => k (s.store a n v)

/-- `AtomicRMW(addr, n, f)` with its faults, in their order; `k` receives the old value
(spec/20_memory.md R58, spec/47_atomic.md R326). -/
def State.atomicRMW (s : State) (a : Word) (n : Nat) (f : Word → Word) (k : Word → State → Result) : Result :=
  if misaligned a n then s.raise (.misaligned a)
  else
    match s.region? .rmw a n with
    | none => s.raise (.memAccess a)
    | some lr => k (s.load lr a n).1 ((s.load lr a n).2.store a n (f (s.load lr a n).1))

/-! ## BPF-local calls -/

/-- The state at the first instruction of a BPF-local function (spec/45_call_exit.md R280, R286): the record is
pushed, R0 and R6 to R9 are undefined, R10 is the top of a fresh frame none of whose bytes is written. -/
def State.enter (s : State) (target : Nat) : State :=
  { s with
    frames := ⟨s.pc + 1, s.reg 6, s.reg 7, s.reg 8, s.reg 9, s.reg 10, s.draws⟩ :: s.frames
    regs := (RegFile.undefine isFresh s.regs).set 10 ⟨Config.frameTop s.cfg (s.frames.length + 1), true⟩
    mem := s.mem.forget (Config.frameBase s.cfg (s.frames.length + 1)) s.cfg.stackSize
    draws := s.draws + 1
    pc := target }

/-- The state after the return from a BPF-local function (spec/45_call_exit.md R280, R288): the frame is gone, R6 to
R10 are the caller's, R1 to R5 are undefined, R0 stays. `r` is the popped record, `rest` what remains. -/
def State.leave (s : State) (r : CallRecord) (rest : List CallRecord) : State :=
  { s with
    frames := rest
    regs := (((((RegFile.undefine isArg s.regs).set 6 r.saved6).set 7 r.saved7).set 8 r.saved8).set 9 r.saved9).set 10 r.saved10
    mem := s.mem.forget (Config.frameBase s.cfg (rest.length + 1)) s.cfg.stackSize
    pc := r.retPc }

/-- A BPF-local call (spec/45_call_exit.md R283, R286). -/
def State.call (s : State) (disp : Int) : Result :=
  if s.frames.length = Config.maxCallDepth s.cfg then s.raise (.callDepth s.pc)
  else
    match target? s.pc disp with
    | some t => .next (s.enter t)
    | none => .refused (.badTarget s.pc)

/-- BPF_EXIT (spec/45_call_exit.md R284, R288): at call depth 0 the run ends with R0, else return. -/
def State.ret (s : State) : Result :=
  match s.frames with
  | [] => s.withReg 0 fun v => .next { s with status := .exited v }
  | r :: rest => .next (s.leave r rest)

/-! ## Helper calls -/

/-- The argument registers of a helper of arity `k`: R1 to Rk (spec/45_call_exit.md R278). -/
def argRegs (k : Nat) : List Reg := ([1, 2, 3, 4, 5] : List Reg).take k

/-- The state after the outcome `ret(v, M')` (spec/45_call_exit.md R279): R0 holds `v` or is undefined, R1 to R5 are
undefined, the bytes the helper changed are those of writable regions. -/
def State.afterHelper (s : State) (v : Option Word) (writes : List Host.Cell) : State :=
  { s with
    regs := (RegFile.undefine isArg s.regs).set 0 (match v with | some x => ⟨x, true⟩ | none => ⟨(s.reg 0).val, false⟩)
    mem := s.mem.putCells (writes.filter fun c => s.writableByte c.1)
    draws := s.draws + 1
    pc := s.pc + 1 }

/-- A case the platform states applies: these are its arguments, and memory holds the bytes it names. -/
def State.caseApplies (s : State) (args : List Word) (c : HelperCase) : Bool :=
  decide (c.args = args) && c.mem.all fun x => decide (s.byteAt x.1 = some x.2)

/-- The first case that applies. -/
def State.helperCase? (s : State) (h : Helper) (args : List Word) : Option HelperCase :=
  h.cases.find? fun c => s.caseApplies args c

/-- Outcome number `k` of a case, its first one where it has fewer. -/
def HelperCase.pick (c : HelperCase) (k : Nat) : HelperOutcome := c.others.getD k c.outcome

/-- The outcome of a helper called with `args` (spec/45_call_exit.md R278): one of those the platform states for these
arguments and this memory, which one being free; a free value where it states none (log 9). -/
def State.outcome (s : State) (space : HelperSpace) (id : Imm) (h : Helper) (args : List Word) : HelperOutcome :=
  match s.helperCase? h args with
  | some c => HelperCase.pick c (Config.helperChoice s.cfg space id args s.mem s.live s.draws)
  | none => Config.helperOutcome s.cfg space id args s.mem s.live s.draws

/-- `Helper(space, id)` with the table of its numbering space (spec/45_call_exit.md R277 to R279, R285). -/
def State.helper (s : State) (space : HelperSpace) (table : List (Imm × Helper)) (id : Imm) : Result :=
  match table.lookup id with
  | none => .refused (.unknownHelper s.pc)
  | some h =>
    s.withRegs (argRegs h.arity) fun args =>
      match s.outcome space id h args with
      | .fault info => s.raise (.helperFault info)
      | .ret v writes => .next (s.afterHelper v writes)

end Sys2Proof.Machine
end

