-- ==== Sys2Proof/Machine/Alu.lean ====
section
/-! DEFINITION. The shape of the arithmetic instructions (spec/40_alu64.md R120, spec/41_alu32.md R160): read the operands, compute,
write the result, step to the next slot. -/

namespace Sys2Proof.Machine

/-- `x[dst_reg] <- r`, `pc <- pc + 1`. -/
def State.finish (s : State) (dst : WReg) (r : Word) : Result := .next ((s.setReg dst r).advance 1)

/-- 64-bit operation with an immediate (spec/40_alu64.md R120). -/
def alu64Imm (f : Word → Word → Word) (dst : WReg) (imm : Imm) (s : State) : Result :=
  s.withReg dst.toReg fun a => s.finish dst (f a (sext64 imm))

/-- 64-bit operation with a register (spec/40_alu64.md R120). -/
def alu64Reg (f : Word → Word → Word) (dst : WReg) (src : Reg) (s : State) : Result :=
  s.withReg dst.toReg fun a => s.withReg src fun b => s.finish dst (f a b)

/-- 64-bit shift by an immediate (spec/40_alu64.md R123). -/
def shift64Imm (f : Word → Nat → Word) (dst : WReg) (imm : Imm) (s : State) : Result :=
  s.withReg dst.toReg fun a => s.withShift (sext64 imm) fun n => s.finish dst (f a n)

/-- 64-bit shift by a register (spec/40_alu64.md R123). -/
def shift64Reg (f : Word → Nat → Word) (dst : WReg) (src : Reg) (s : State) : Result :=
  s.withReg dst.toReg fun a => s.withReg src fun b => s.withShift b fun n => s.finish dst (f a n)

/-- 32-bit operation with an immediate (spec/41_alu32.md R160). -/
def alu32Imm (f : BitVec 32 → BitVec 32 → BitVec 32) (dst : WReg) (imm : Imm) (s : State) : Result :=
  s.withReg dst.toReg fun a => s.finish dst (zext64 (f (low32 a) imm))

/-- 32-bit operation with a register (spec/41_alu32.md R160). -/
def alu32Reg (f : BitVec 32 → BitVec 32 → BitVec 32) (dst : WReg) (src : Reg) (s : State) : Result :=
  s.withReg dst.toReg fun a => s.withReg src fun b => s.finish dst (zext64 (f (low32 a) (low32 b)))

/-- 32-bit shift by an immediate (spec/41_alu32.md R163). -/
def shift32Imm (f : BitVec 32 → Nat → BitVec 32) (dst : WReg) (imm : Imm) (s : State) : Result :=
  s.withReg dst.toReg fun a => s.withShift imm fun n => s.finish dst (zext64 (f (low32 a) n))

/-- 32-bit shift by a register, whose low half is the amount (spec/41_alu32.md R163). -/
def shift32Reg (f : BitVec 32 → Nat → BitVec 32) (dst : WReg) (src : Reg) (s : State) : Result :=
  s.withReg dst.toReg fun a => s.withReg src fun b => s.withShift (low32 b) fun n => s.finish dst (zext64 (f (low32 a) n))

end Sys2Proof.Machine
end

