-- ==== Sys2Proof/Machine/Alu32.lean ====
section
/-! DEFINITION. The 32-bit arithmetic instructions, BPF_ALU (spec/41_alu32.md). -/

namespace Sys2Proof.Machine

/-- `add32_imm`: 32-bit addition with an immediate (R165). -/
def execAdd32Imm (dst : WReg) (imm : Imm) (s : State) : Result :=
  alu32Imm (fun a b => a + b) dst imm s

/-- `add32_reg`: 32-bit addition with a register (R166). -/
def execAdd32Reg (dst : WReg) (src : Reg) (s : State) : Result :=
  alu32Reg (fun a b => a + b) dst src s

/-- `sub32_imm`: 32-bit subtraction with an immediate (R167). -/
def execSub32Imm (dst : WReg) (imm : Imm) (s : State) : Result :=
  alu32Imm (fun a b => a - b) dst imm s

/-- `sub32_reg`: 32-bit subtraction with a register (R168). -/
def execSub32Reg (dst : WReg) (src : Reg) (s : State) : Result :=
  alu32Reg (fun a b => a - b) dst src s

/-- `mul32_imm`: 32-bit multiplication with an immediate (R169). -/
def execMul32Imm (dst : WReg) (imm : Imm) (s : State) : Result :=
  alu32Imm (fun a b => a * b) dst imm s

/-- `mul32_reg`: 32-bit multiplication with a register (R170). -/
def execMul32Reg (dst : WReg) (src : Reg) (s : State) : Result :=
  alu32Reg (fun a b => a * b) dst src s

/-- `div32_imm`: 32-bit unsigned division with an immediate (R171). -/
def execDiv32Imm (dst : WReg) (imm : Imm) (s : State) : Result :=
  alu32Imm divOrZero dst imm s

/-- `div32_reg`: 32-bit unsigned division with a register (R172). -/
def execDiv32Reg (dst : WReg) (src : Reg) (s : State) : Result :=
  alu32Reg divOrZero dst src s

/-- `or32_imm`: 32-bit bitwise OR with an immediate (R173). -/
def execOr32Imm (dst : WReg) (imm : Imm) (s : State) : Result :=
  alu32Imm (fun a b => a ||| b) dst imm s

/-- `or32_reg`: 32-bit bitwise OR with a register (R174). -/
def execOr32Reg (dst : WReg) (src : Reg) (s : State) : Result :=
  alu32Reg (fun a b => a ||| b) dst src s

/-- `and32_imm`: 32-bit bitwise AND with an immediate (R175). -/
def execAnd32Imm (dst : WReg) (imm : Imm) (s : State) : Result :=
  alu32Imm (fun a b => a &&& b) dst imm s

/-- `and32_reg`: 32-bit bitwise AND with a register (R176). -/
def execAnd32Reg (dst : WReg) (src : Reg) (s : State) : Result :=
  alu32Reg (fun a b => a &&& b) dst src s

/-- `lsh32_imm`: 32-bit shift left with an immediate (R177). -/
def execLsh32Imm (dst : WReg) (imm : Imm) (s : State) : Result :=
  shift32Imm (fun a n => a <<< n) dst imm s

/-- `lsh32_reg`: 32-bit shift left with a register (R178). -/
def execLsh32Reg (dst : WReg) (src : Reg) (s : State) : Result :=
  shift32Reg (fun a n => a <<< n) dst src s

/-- `rsh32_imm`: 32-bit logical shift right with an immediate (R179). -/
def execRsh32Imm (dst : WReg) (imm : Imm) (s : State) : Result :=
  shift32Imm (fun a n => a >>> n) dst imm s

/-- `rsh32_reg`: 32-bit logical shift right with a register (R180). -/
def execRsh32Reg (dst : WReg) (src : Reg) (s : State) : Result :=
  shift32Reg (fun a n => a >>> n) dst src s

/-- `neg32`: 32-bit negation (R181). -/
def execNeg32 (dst : WReg) (s : State) : Result :=
  s.withReg dst.toReg fun a => s.finish dst (zext64 (0 - low32 a))

/-- `mod32_imm`: 32-bit unsigned remainder with an immediate (R182). -/
def execMod32Imm (dst : WReg) (imm : Imm) (s : State) : Result :=
  alu32Imm modOrKeep dst imm s

/-- `mod32_reg`: 32-bit unsigned remainder with a register (R183). -/
def execMod32Reg (dst : WReg) (src : Reg) (s : State) : Result :=
  alu32Reg modOrKeep dst src s

/-- `xor32_imm`: 32-bit bitwise exclusive OR with an immediate (R184). -/
def execXor32Imm (dst : WReg) (imm : Imm) (s : State) : Result :=
  alu32Imm (fun a b => a ^^^ b) dst imm s

/-- `xor32_reg`: 32-bit bitwise exclusive OR with a register (R185). -/
def execXor32Reg (dst : WReg) (src : Reg) (s : State) : Result :=
  alu32Reg (fun a b => a ^^^ b) dst src s

/-- `mov32_imm`: 32-bit move with an immediate: reads no register (R186). -/
def execMov32Imm (dst : WReg) (imm : Imm) (s : State) : Result :=
  s.finish dst (zext64 imm)

/-- `mov32_reg`: 32-bit move with a register: does not read the destination (R187). -/
def execMov32Reg (dst : WReg) (src : Reg) (s : State) : Result :=
  s.withReg src fun b => s.finish dst (zext64 (low32 b))

/-- `arsh32_imm`: 32-bit arithmetic shift right with an immediate (R188). -/
def execArsh32Imm (dst : WReg) (imm : Imm) (s : State) : Result :=
  shift32Imm (fun a n => a.sshiftRight n) dst imm s

/-- `arsh32_reg`: 32-bit arithmetic shift right with a register (R189). -/
def execArsh32Reg (dst : WReg) (src : Reg) (s : State) : Result :=
  shift32Reg (fun a n => a.sshiftRight n) dst src s

end Sys2Proof.Machine
end

