-- ==== Sys2Proof/Machine/Alu64.lean ====
section
/-! DEFINITION. The 64-bit arithmetic instructions, BPF_ALU64 (spec/40_alu64.md). -/

namespace Sys2Proof.Machine

/-- `add64_imm`: 64-bit addition with an immediate (R126). -/
def execAdd64Imm (dst : WReg) (imm : Imm) (s : State) : Result :=
  alu64Imm (fun a b => a + b) dst imm s

/-- `add64_reg`: 64-bit addition with a register (R127). -/
def execAdd64Reg (dst : WReg) (src : Reg) (s : State) : Result :=
  alu64Reg (fun a b => a + b) dst src s

/-- `sub64_imm`: 64-bit subtraction with an immediate (R128). -/
def execSub64Imm (dst : WReg) (imm : Imm) (s : State) : Result :=
  alu64Imm (fun a b => a - b) dst imm s

/-- `sub64_reg`: 64-bit subtraction with a register (R129). -/
def execSub64Reg (dst : WReg) (src : Reg) (s : State) : Result :=
  alu64Reg (fun a b => a - b) dst src s

/-- `mul64_imm`: 64-bit multiplication with an immediate (R130). -/
def execMul64Imm (dst : WReg) (imm : Imm) (s : State) : Result :=
  alu64Imm (fun a b => a * b) dst imm s

/-- `mul64_reg`: 64-bit multiplication with a register (R131). -/
def execMul64Reg (dst : WReg) (src : Reg) (s : State) : Result :=
  alu64Reg (fun a b => a * b) dst src s

/-- `div64_imm`: 64-bit unsigned division with an immediate (R132). -/
def execDiv64Imm (dst : WReg) (imm : Imm) (s : State) : Result :=
  alu64Imm divOrZero dst imm s

/-- `div64_reg`: 64-bit unsigned division with a register (R133). -/
def execDiv64Reg (dst : WReg) (src : Reg) (s : State) : Result :=
  alu64Reg divOrZero dst src s

/-- `or64_imm`: 64-bit bitwise OR with an immediate (R134). -/
def execOr64Imm (dst : WReg) (imm : Imm) (s : State) : Result :=
  alu64Imm (fun a b => a ||| b) dst imm s

/-- `or64_reg`: 64-bit bitwise OR with a register (R135). -/
def execOr64Reg (dst : WReg) (src : Reg) (s : State) : Result :=
  alu64Reg (fun a b => a ||| b) dst src s

/-- `and64_imm`: 64-bit bitwise AND with an immediate (R136). -/
def execAnd64Imm (dst : WReg) (imm : Imm) (s : State) : Result :=
  alu64Imm (fun a b => a &&& b) dst imm s

/-- `and64_reg`: 64-bit bitwise AND with a register (R137). -/
def execAnd64Reg (dst : WReg) (src : Reg) (s : State) : Result :=
  alu64Reg (fun a b => a &&& b) dst src s

/-- `lsh64_imm`: 64-bit shift left with an immediate (R138). -/
def execLsh64Imm (dst : WReg) (imm : Imm) (s : State) : Result :=
  shift64Imm (fun a n => a <<< n) dst imm s

/-- `lsh64_reg`: 64-bit shift left with a register (R139). -/
def execLsh64Reg (dst : WReg) (src : Reg) (s : State) : Result :=
  shift64Reg (fun a n => a <<< n) dst src s

/-- `rsh64_imm`: 64-bit logical shift right with an immediate (R140). -/
def execRsh64Imm (dst : WReg) (imm : Imm) (s : State) : Result :=
  shift64Imm (fun a n => a >>> n) dst imm s

/-- `rsh64_reg`: 64-bit logical shift right with a register (R141). -/
def execRsh64Reg (dst : WReg) (src : Reg) (s : State) : Result :=
  shift64Reg (fun a n => a >>> n) dst src s

/-- `neg64`: 64-bit negation (R142). -/
def execNeg64 (dst : WReg) (s : State) : Result :=
  s.withReg dst.toReg fun a => s.finish dst (0 - a)

/-- `mod64_imm`: 64-bit unsigned remainder with an immediate (R143). -/
def execMod64Imm (dst : WReg) (imm : Imm) (s : State) : Result :=
  alu64Imm modOrKeep dst imm s

/-- `mod64_reg`: 64-bit unsigned remainder with a register (R144). -/
def execMod64Reg (dst : WReg) (src : Reg) (s : State) : Result :=
  alu64Reg modOrKeep dst src s

/-- `xor64_imm`: 64-bit bitwise exclusive OR with an immediate (R145). -/
def execXor64Imm (dst : WReg) (imm : Imm) (s : State) : Result :=
  alu64Imm (fun a b => a ^^^ b) dst imm s

/-- `xor64_reg`: 64-bit bitwise exclusive OR with a register (R146). -/
def execXor64Reg (dst : WReg) (src : Reg) (s : State) : Result :=
  alu64Reg (fun a b => a ^^^ b) dst src s

/-- `mov64_imm`: 64-bit move with an immediate: reads no register (R147). -/
def execMov64Imm (dst : WReg) (imm : Imm) (s : State) : Result :=
  s.finish dst (sext64 imm)

/-- `mov64_reg`: 64-bit move with a register: does not read the destination (R148). -/
def execMov64Reg (dst : WReg) (src : Reg) (s : State) : Result :=
  s.withReg src fun b => s.finish dst b

/-- `arsh64_imm`: 64-bit arithmetic shift right with an immediate (R149). -/
def execArsh64Imm (dst : WReg) (imm : Imm) (s : State) : Result :=
  shift64Imm (fun a n => a.sshiftRight n) dst imm s

/-- `arsh64_reg`: 64-bit arithmetic shift right with a register (R150). -/
def execArsh64Reg (dst : WReg) (src : Reg) (s : State) : Result :=
  shift64Reg (fun a n => a.sshiftRight n) dst src s

end Sys2Proof.Machine
end

