-- ==== Sys2Proof/Machine/Atomic.lean ====
section
/-! DEFINITION. The atomic operations (spec/47_atomic.md). A 32-bit operation works on the low halves (R322, R327). -/

namespace Sys2Proof.Machine

/-- A 32-bit operation on the low halves, its result widened with zeros (R322, R327). -/
def on32 (f : BitVec 32 → BitVec 32 → BitVec 32) (old val : Word) : Word := zext64 (f (low32 old) (low32 val))

/-- An operation without BPF_FETCH: `op old val` replaces the memory operand, no register changes (R322). -/
def atomicOp (n : Nat) (op : Word → Word → Word) (dst : Reg) (off : Off) (src : Reg) (s : State) : Result :=
  s.withReg dst fun base => s.withReg src fun val =>
    s.atomicRMW (effAddr base off) n (fun old => op old val) fun _ s' => .next (s'.advance 1)

/-- An operation with BPF_FETCH: the source register receives the old value, widened with zeros (R323, R327). -/
def atomicFetch (n : Nat) (op : Word → Word → Word) (dst : Reg) (off : Off) (src : WReg) (s : State) : Result :=
  s.withReg dst fun base => s.withReg src.toReg fun val =>
    s.atomicRMW (effAddr base off) n (fun old => op old val) fun old s' => s'.finish src old

/-- Compare and exchange: the memory operand is compared with R0, which receives the old value widened with zeros;
`cut` takes the bits of a register that take part (R324, R327). -/
def atomicCmpxchg (n : Nat) (cut : Word → Word) (dst : Reg) (off : Off) (src : Reg) (s : State) : Result :=
  s.withReg dst fun base => s.withReg src fun val => s.withReg 0 fun exp =>
    s.atomicRMW (effAddr base off) n (fun old => if old = cut exp then cut val else old) fun old s' => s'.finish 0 old

/-- `atomic_add32`: 32-bit atomic add (R328). -/
def execAtomicAdd32 (dst : Reg) (off : Off) (src : Reg) (s : State) : Result :=
  atomicOp 4 (on32 (fun old val => old + val)) dst off src s

/-- `atomic_fetch_add32`: 32-bit atomic add; the source register receives the old value (R329). -/
def execAtomicFetchAdd32 (dst : Reg) (off : Off) (src : WReg) (s : State) : Result :=
  atomicFetch 4 (on32 (fun old val => old + val)) dst off src s

/-- `atomic_or32`: 32-bit atomic or (R330). -/
def execAtomicOr32 (dst : Reg) (off : Off) (src : Reg) (s : State) : Result :=
  atomicOp 4 (on32 (fun old val => old ||| val)) dst off src s

/-- `atomic_fetch_or32`: 32-bit atomic or; the source register receives the old value (R331). -/
def execAtomicFetchOr32 (dst : Reg) (off : Off) (src : WReg) (s : State) : Result :=
  atomicFetch 4 (on32 (fun old val => old ||| val)) dst off src s

/-- `atomic_and32`: 32-bit atomic and (R332). -/
def execAtomicAnd32 (dst : Reg) (off : Off) (src : Reg) (s : State) : Result :=
  atomicOp 4 (on32 (fun old val => old &&& val)) dst off src s

/-- `atomic_fetch_and32`: 32-bit atomic and; the source register receives the old value (R333). -/
def execAtomicFetchAnd32 (dst : Reg) (off : Off) (src : WReg) (s : State) : Result :=
  atomicFetch 4 (on32 (fun old val => old &&& val)) dst off src s

/-- `atomic_xor32`: 32-bit atomic xor (R334). -/
def execAtomicXor32 (dst : Reg) (off : Off) (src : Reg) (s : State) : Result :=
  atomicOp 4 (on32 (fun old val => old ^^^ val)) dst off src s

/-- `atomic_fetch_xor32`: 32-bit atomic xor; the source register receives the old value (R335). -/
def execAtomicFetchXor32 (dst : Reg) (off : Off) (src : WReg) (s : State) : Result :=
  atomicFetch 4 (on32 (fun old val => old ^^^ val)) dst off src s

/-- `atomic_xchg32`: 32-bit atomic xchg; the source register receives the old value (R336). -/
def execAtomicXchg32 (dst : Reg) (off : Off) (src : WReg) (s : State) : Result :=
  atomicFetch 4 (on32 (fun _ val => val)) dst off src s

/-- `atomic_cmpxchg32`: 32-bit compare and exchange with R0; R0 receives the old value (R337). -/
def execAtomicCmpxchg32 (dst : Reg) (off : Off) (src : Reg) (s : State) : Result :=
  atomicCmpxchg 4 (fun v => zext64 (low32 v)) dst off src s

/-- `atomic_add64`: 64-bit atomic add (R338). -/
def execAtomicAdd64 (dst : Reg) (off : Off) (src : Reg) (s : State) : Result :=
  atomicOp 8 (fun old val => old + val) dst off src s

/-- `atomic_fetch_add64`: 64-bit atomic add; the source register receives the old value (R339). -/
def execAtomicFetchAdd64 (dst : Reg) (off : Off) (src : WReg) (s : State) : Result :=
  atomicFetch 8 (fun old val => old + val) dst off src s

/-- `atomic_or64`: 64-bit atomic or (R340). -/
def execAtomicOr64 (dst : Reg) (off : Off) (src : Reg) (s : State) : Result :=
  atomicOp 8 (fun old val => old ||| val) dst off src s

/-- `atomic_fetch_or64`: 64-bit atomic or; the source register receives the old value (R341). -/
def execAtomicFetchOr64 (dst : Reg) (off : Off) (src : WReg) (s : State) : Result :=
  atomicFetch 8 (fun old val => old ||| val) dst off src s

/-- `atomic_and64`: 64-bit atomic and (R342). -/
def execAtomicAnd64 (dst : Reg) (off : Off) (src : Reg) (s : State) : Result :=
  atomicOp 8 (fun old val => old &&& val) dst off src s

/-- `atomic_fetch_and64`: 64-bit atomic and; the source register receives the old value (R343). -/
def execAtomicFetchAnd64 (dst : Reg) (off : Off) (src : WReg) (s : State) : Result :=
  atomicFetch 8 (fun old val => old &&& val) dst off src s

/-- `atomic_xor64`: 64-bit atomic xor (R344). -/
def execAtomicXor64 (dst : Reg) (off : Off) (src : Reg) (s : State) : Result :=
  atomicOp 8 (fun old val => old ^^^ val) dst off src s

/-- `atomic_fetch_xor64`: 64-bit atomic xor; the source register receives the old value (R345). -/
def execAtomicFetchXor64 (dst : Reg) (off : Off) (src : WReg) (s : State) : Result :=
  atomicFetch 8 (fun old val => old ^^^ val) dst off src s

/-- `atomic_xchg64`: 64-bit atomic xchg; the source register receives the old value (R346). -/
def execAtomicXchg64 (dst : Reg) (off : Off) (src : WReg) (s : State) : Result :=
  atomicFetch 8 (fun _ val => val) dst off src s

/-- `atomic_cmpxchg64`: 64-bit compare and exchange with R0; R0 receives the old value (R347). -/
def execAtomicCmpxchg64 (dst : Reg) (off : Off) (src : Reg) (s : State) : Result :=
  atomicCmpxchg 8 (fun v => v) dst off src s

end Sys2Proof.Machine
end

