-- ==== Sys2Proof/Machine/ByteSwap.lean ====
section
/-! DEFINITION. The byte swap instructions (spec/42_byteswap.md): the low bits, converted, widened with zeros (R197). -/

namespace Sys2Proof.Machine

/-- `le16`: convert the low 16 bits between host byte order and little-endian (R198). -/
def execLe16 (dst : WReg) (s : State) : Result :=
  s.withReg dst.toReg fun a => s.finish dst ((toOrder s.cfg.endian .little bswap16 (a.extractLsb' 0 16)).zeroExtend 64)

/-- `le32`: convert the low 32 bits between host byte order and little-endian (R199). -/
def execLe32 (dst : WReg) (s : State) : Result :=
  s.withReg dst.toReg fun a => s.finish dst ((toOrder s.cfg.endian .little bswap32 (a.extractLsb' 0 32)).zeroExtend 64)

/-- `le64`: convert the low 64 bits between host byte order and little-endian (R200). -/
def execLe64 (dst : WReg) (s : State) : Result :=
  s.withReg dst.toReg fun a => s.finish dst (toOrder s.cfg.endian .little bswap64 a)

/-- `be16`: convert the low 16 bits between host byte order and big-endian (R201). -/
def execBe16 (dst : WReg) (s : State) : Result :=
  s.withReg dst.toReg fun a => s.finish dst ((toOrder s.cfg.endian .big bswap16 (a.extractLsb' 0 16)).zeroExtend 64)

/-- `be32`: convert the low 32 bits between host byte order and big-endian (R202). -/
def execBe32 (dst : WReg) (s : State) : Result :=
  s.withReg dst.toReg fun a => s.finish dst ((toOrder s.cfg.endian .big bswap32 (a.extractLsb' 0 32)).zeroExtend 64)

/-- `be64`: convert the low 64 bits between host byte order and big-endian (R203). -/
def execBe64 (dst : WReg) (s : State) : Result :=
  s.withReg dst.toReg fun a => s.finish dst (toOrder s.cfg.endian .big bswap64 a)

end Sys2Proof.Machine
end

