-- ==== Sys2Proof/Machine/CallExit.lean ====
section
/-! DEFINITION. The calls and exit (spec/45_call_exit.md). -/

namespace Sys2Proof.Machine

/-- `call_helper`: call a platform-agnostic helper function (R285). -/
def execCallHelper (id : Imm) (s : State) : Result :=
  s.helper .agnostic s.cfg.helpersAgnostic id

/-- `call_local`: call a BPF-local function (R286). -/
def execCallLocal (off : Off) (imm : Imm) (s : State) : Result :=
  s.call (callDisp s.cfg.localCallField off imm)

/-- `call_platform`: call a platform-specific helper function (R287). -/
def execCallPlatform (id : Imm) (s : State) : Result :=
  s.helper .platform s.cfg.helpersPlatform id

/-- `exit`: end the program or return from a BPF-local function (R288). -/
def execExit (s : State) : Result :=
  s.ret

end Sys2Proof.Machine
end

