-- ==== Sys2Proof/Machine/Imm64.lean ====
section
/-! DEFINITION. The 64-bit immediate loads, two slots each (spec/48_imm64.md). -/

namespace Sys2Proof.Machine

/-- `x[dst_reg] <- r`, `pc <- pc + 2` (R356). -/
def State.finishWide (s : State) (dst : WReg) (r : Word) : Result := .next ((s.setReg dst r).advance 2)

/-- The operand's address, or the refusal of a platform that lacks it, in a program R109 (7) refuses (log 11). -/
def State.withOperand (s : State) (v : Option Word) (k : Word → Result) : Result :=
  match v with
  | some a => k a
  | none => .refused (.unsupported s.pc)

/-- The slot `pc + 1 + displacement` of a code address (R359); refused where it lies before slot 0, in a program
R109 (5) refuses (log 11). -/
def State.withTarget (s : State) (disp : Int) (k : Nat → Result) : Result :=
  match target? s.pc disp with
  | some t => k t
  | none => .refused (.badTarget s.pc)

/-- `map_by_fd(imm)` or `map_by_idx(imm)` where maps are supported (R357). -/
def State.mapAddr (s : State) (maps : List (Imm × Word)) (imm : Imm) : Option Word :=
  if s.cfg.mapsSupported then maps.lookup imm else none

/-- `mva` of the map, where it is defined (R357). -/
def State.mapValue (s : State) (maps : List (Imm × Word)) (imm : Imm) : Option Word :=
  (s.mapAddr maps imm).bind fun m => s.cfg.mva.lookup m

/-- `variable_addr(imm)` where variables are supported (R358). -/
def State.varAddr (s : State) (imm : Imm) : Option Word :=
  if s.cfg.varsSupported then s.cfg.variableAddr.lookup imm else none

/-- `lddw`: load a 64-bit constant (R360). -/
def execLddw (dst : WReg) (imm : Imm) (nextImm : Imm) (s : State) : Result :=
  s.finishWide dst (nextImm ++ imm)

/-- `ld_map_fd`: load the address of the map object with a file descriptor (R361). -/
def execLdMapFd (dst : WReg) (imm : Imm) (s : State) : Result :=
  s.withOperand (s.mapAddr s.cfg.mapByFd imm) fun m => s.finishWide dst m

/-- `ld_map_fd_value`: load the address of a byte of the value area of the map with a file descriptor (R362). -/
def execLdMapFdValue (dst : WReg) (imm : Imm) (nextImm : Imm) (s : State) : Result :=
  s.withOperand (s.mapValue s.cfg.mapByFd imm) fun v => s.finishWide dst (v + zext64 nextImm)

/-- `ld_var_addr`: load the address of a platform variable (R363). -/
def execLdVarAddr (dst : WReg) (imm : Imm) (s : State) : Result :=
  s.withOperand (s.varAddr imm) fun v => s.finishWide dst v

/-- `ld_code_addr`: load the address of an instruction (R364). -/
def execLdCodeAddr (dst : WReg) (imm : Imm) (s : State) : Result :=
  s.withTarget imm.toInt fun t => s.finishWide dst (codeAddrOf s.cfg s.prog.length t)

/-- `ld_map_idx`: load the address of the map object with an index (R365). -/
def execLdMapIdx (dst : WReg) (imm : Imm) (s : State) : Result :=
  s.withOperand (s.mapAddr s.cfg.mapByIdx imm) fun m => s.finishWide dst m

/-- `ld_map_idx_value`: load the address of a byte of the value area of the map with an index (R366). -/
def execLdMapIdxValue (dst : WReg) (imm : Imm) (nextImm : Imm) (s : State) : Result :=
  s.withOperand (s.mapValue s.cfg.mapByIdx imm) fun v => s.finishWide dst (v + zext64 nextImm)

end Sys2Proof.Machine
end

