-- ==== Sys2Proof/Machine/Jump32.lean ====
section
/-! DEFINITION. The jumps of class BPF_JMP32 (spec/44_jump32.md). -/

namespace Sys2Proof.Machine

/-- Compare the low half of a register with the immediate's pattern and branch (R245, R246). -/
def jump32Imm (cond : BitVec 32 → BitVec 32 → Bool) (dst : Reg) (imm : Imm) (off : Off) (s : State) : Result :=
  s.withReg dst fun a => s.branch (cond (low32 a) imm) off

/-- Compare the low halves of two registers and branch (R245, R246). -/
def jump32Reg (cond : BitVec 32 → BitVec 32 → Bool) (dst src : Reg) (off : Off) (s : State) : Result :=
  s.withReg dst fun a => s.withReg src fun b => s.branch (cond (low32 a) (low32 b)) off

/-- `jeq32_imm`: 32-bit conditional jump (equal) with an immediate (R248). -/
def execJeq32Imm (dst : Reg) (imm : Imm) (off : Off) (s : State) : Result :=
  jump32Imm condEq dst imm off s

/-- `jeq32_reg`: 32-bit conditional jump (equal) with a register (R249). -/
def execJeq32Reg (dst : Reg) (src : Reg) (off : Off) (s : State) : Result :=
  jump32Reg condEq dst src off s

/-- `jgt32_imm`: 32-bit conditional jump (greater, unsigned) with an immediate (R250). -/
def execJgt32Imm (dst : Reg) (imm : Imm) (off : Off) (s : State) : Result :=
  jump32Imm condGt dst imm off s

/-- `jgt32_reg`: 32-bit conditional jump (greater, unsigned) with a register (R251). -/
def execJgt32Reg (dst : Reg) (src : Reg) (off : Off) (s : State) : Result :=
  jump32Reg condGt dst src off s

/-- `jge32_imm`: 32-bit conditional jump (greater or equal, unsigned) with an immediate (R252). -/
def execJge32Imm (dst : Reg) (imm : Imm) (off : Off) (s : State) : Result :=
  jump32Imm condGe dst imm off s

/-- `jge32_reg`: 32-bit conditional jump (greater or equal, unsigned) with a register (R253). -/
def execJge32Reg (dst : Reg) (src : Reg) (off : Off) (s : State) : Result :=
  jump32Reg condGe dst src off s

/-- `jset32_imm`: 32-bit conditional jump (bits in common) with an immediate (R254). -/
def execJset32Imm (dst : Reg) (imm : Imm) (off : Off) (s : State) : Result :=
  jump32Imm condSet dst imm off s

/-- `jset32_reg`: 32-bit conditional jump (bits in common) with a register (R255). -/
def execJset32Reg (dst : Reg) (src : Reg) (off : Off) (s : State) : Result :=
  jump32Reg condSet dst src off s

/-- `jne32_imm`: 32-bit conditional jump (not equal) with an immediate (R256). -/
def execJne32Imm (dst : Reg) (imm : Imm) (off : Off) (s : State) : Result :=
  jump32Imm condNe dst imm off s

/-- `jne32_reg`: 32-bit conditional jump (not equal) with a register (R257). -/
def execJne32Reg (dst : Reg) (src : Reg) (off : Off) (s : State) : Result :=
  jump32Reg condNe dst src off s

/-- `jsgt32_imm`: 32-bit conditional jump (greater, signed) with an immediate (R258). -/
def execJsgt32Imm (dst : Reg) (imm : Imm) (off : Off) (s : State) : Result :=
  jump32Imm condSgt dst imm off s

/-- `jsgt32_reg`: 32-bit conditional jump (greater, signed) with a register (R259). -/
def execJsgt32Reg (dst : Reg) (src : Reg) (off : Off) (s : State) : Result :=
  jump32Reg condSgt dst src off s

/-- `jsge32_imm`: 32-bit conditional jump (greater or equal, signed) with an immediate (R260). -/
def execJsge32Imm (dst : Reg) (imm : Imm) (off : Off) (s : State) : Result :=
  jump32Imm condSge dst imm off s

/-- `jsge32_reg`: 32-bit conditional jump (greater or equal, signed) with a register (R261). -/
def execJsge32Reg (dst : Reg) (src : Reg) (off : Off) (s : State) : Result :=
  jump32Reg condSge dst src off s

/-- `jlt32_imm`: 32-bit conditional jump (less, unsigned) with an immediate (R262). -/
def execJlt32Imm (dst : Reg) (imm : Imm) (off : Off) (s : State) : Result :=
  jump32Imm condLt dst imm off s

/-- `jlt32_reg`: 32-bit conditional jump (less, unsigned) with a register (R263). -/
def execJlt32Reg (dst : Reg) (src : Reg) (off : Off) (s : State) : Result :=
  jump32Reg condLt dst src off s

/-- `jle32_imm`: 32-bit conditional jump (less or equal, unsigned) with an immediate (R264). -/
def execJle32Imm (dst : Reg) (imm : Imm) (off : Off) (s : State) : Result :=
  jump32Imm condLe dst imm off s

/-- `jle32_reg`: 32-bit conditional jump (less or equal, unsigned) with a register (R265). -/
def execJle32Reg (dst : Reg) (src : Reg) (off : Off) (s : State) : Result :=
  jump32Reg condLe dst src off s

/-- `jslt32_imm`: 32-bit conditional jump (less, signed) with an immediate (R266). -/
def execJslt32Imm (dst : Reg) (imm : Imm) (off : Off) (s : State) : Result :=
  jump32Imm condSlt dst imm off s

/-- `jslt32_reg`: 32-bit conditional jump (less, signed) with a register (R267). -/
def execJslt32Reg (dst : Reg) (src : Reg) (off : Off) (s : State) : Result :=
  jump32Reg condSlt dst src off s

/-- `jsle32_imm`: 32-bit conditional jump (less or equal, signed) with an immediate (R268). -/
def execJsle32Imm (dst : Reg) (imm : Imm) (off : Off) (s : State) : Result :=
  jump32Imm condSle dst imm off s

/-- `jsle32_reg`: 32-bit conditional jump (less or equal, signed) with a register (R269). -/
def execJsle32Reg (dst : Reg) (src : Reg) (off : Off) (s : State) : Result :=
  jump32Reg condSle dst src off s

end Sys2Proof.Machine
end

