-- ==== Sys2Proof/Machine/Jump64.lean ====
section
/-! DEFINITION. The jumps of class BPF_JMP (spec/43_jump64.md). -/

namespace Sys2Proof.Machine

/-- Compare a register with an immediate and branch (R210). -/
def jump64Imm (cond : Word → Word → Bool) (dst : Reg) (imm : Imm) (off : Off) (s : State) : Result :=
  s.withReg dst fun a => s.branch (cond a (sext64 imm)) off

/-- Compare two registers and branch (R210, R213). -/
def jump64Reg (cond : Word → Word → Bool) (dst src : Reg) (off : Off) (s : State) : Result :=
  s.withReg dst fun a => s.withReg src fun b => s.branch (cond a b) off

/-- `ja`: unconditional jump (R214). -/
def execJa (off : Off) (s : State) : Result :=
  s.jump off.toInt

/-- `jeq_imm`: 64-bit conditional jump (equal) with an immediate (R215). -/
def execJeqImm (dst : Reg) (imm : Imm) (off : Off) (s : State) : Result :=
  jump64Imm condEq dst imm off s

/-- `jeq_reg`: 64-bit conditional jump (equal) with a register (R216). -/
def execJeqReg (dst : Reg) (src : Reg) (off : Off) (s : State) : Result :=
  jump64Reg condEq dst src off s

/-- `jgt_imm`: 64-bit conditional jump (greater, unsigned) with an immediate (R217). -/
def execJgtImm (dst : Reg) (imm : Imm) (off : Off) (s : State) : Result :=
  jump64Imm condGt dst imm off s

/-- `jgt_reg`: 64-bit conditional jump (greater, unsigned) with a register (R218). -/
def execJgtReg (dst : Reg) (src : Reg) (off : Off) (s : State) : Result :=
  jump64Reg condGt dst src off s

/-- `jge_imm`: 64-bit conditional jump (greater or equal, unsigned) with an immediate (R219). -/
def execJgeImm (dst : Reg) (imm : Imm) (off : Off) (s : State) : Result :=
  jump64Imm condGe dst imm off s

/-- `jge_reg`: 64-bit conditional jump (greater or equal, unsigned) with a register (R220). -/
def execJgeReg (dst : Reg) (src : Reg) (off : Off) (s : State) : Result :=
  jump64Reg condGe dst src off s

/-- `jset_imm`: 64-bit conditional jump (bits in common) with an immediate (R221). -/
def execJsetImm (dst : Reg) (imm : Imm) (off : Off) (s : State) : Result :=
  jump64Imm condSet dst imm off s

/-- `jset_reg`: 64-bit conditional jump (bits in common) with a register (R222). -/
def execJsetReg (dst : Reg) (src : Reg) (off : Off) (s : State) : Result :=
  jump64Reg condSet dst src off s

/-- `jne_imm`: 64-bit conditional jump (not equal) with an immediate (R223). -/
def execJneImm (dst : Reg) (imm : Imm) (off : Off) (s : State) : Result :=
  jump64Imm condNe dst imm off s

/-- `jne_reg`: 64-bit conditional jump (not equal) with a register (R224). -/
def execJneReg (dst : Reg) (src : Reg) (off : Off) (s : State) : Result :=
  jump64Reg condNe dst src off s

/-- `jsgt_imm`: 64-bit conditional jump (greater, signed) with an immediate (R225). -/
def execJsgtImm (dst : Reg) (imm : Imm) (off : Off) (s : State) : Result :=
  jump64Imm condSgt dst imm off s

/-- `jsgt_reg`: 64-bit conditional jump (greater, signed) with a register (R226). -/
def execJsgtReg (dst : Reg) (src : Reg) (off : Off) (s : State) : Result :=
  jump64Reg condSgt dst src off s

/-- `jsge_imm`: 64-bit conditional jump (greater or equal, signed) with an immediate (R227). -/
def execJsgeImm (dst : Reg) (imm : Imm) (off : Off) (s : State) : Result :=
  jump64Imm condSge dst imm off s

/-- `jsge_reg`: 64-bit conditional jump (greater or equal, signed) with a register (R228). -/
def execJsgeReg (dst : Reg) (src : Reg) (off : Off) (s : State) : Result :=
  jump64Reg condSge dst src off s

/-- `jlt_imm`: 64-bit conditional jump (less, unsigned) with an immediate (R229). -/
def execJltImm (dst : Reg) (imm : Imm) (off : Off) (s : State) : Result :=
  jump64Imm condLt dst imm off s

/-- `jlt_reg`: 64-bit conditional jump (less, unsigned) with a register (R230). -/
def execJltReg (dst : Reg) (src : Reg) (off : Off) (s : State) : Result :=
  jump64Reg condLt dst src off s

/-- `jle_imm`: 64-bit conditional jump (less or equal, unsigned) with an immediate (R231). -/
def execJleImm (dst : Reg) (imm : Imm) (off : Off) (s : State) : Result :=
  jump64Imm condLe dst imm off s

/-- `jle_reg`: 64-bit conditional jump (less or equal, unsigned) with a register (R232). -/
def execJleReg (dst : Reg) (src : Reg) (off : Off) (s : State) : Result :=
  jump64Reg condLe dst src off s

/-- `jslt_imm`: 64-bit conditional jump (less, signed) with an immediate (R233). -/
def execJsltImm (dst : Reg) (imm : Imm) (off : Off) (s : State) : Result :=
  jump64Imm condSlt dst imm off s

/-- `jslt_reg`: 64-bit conditional jump (less, signed) with a register (R234). -/
def execJsltReg (dst : Reg) (src : Reg) (off : Off) (s : State) : Result :=
  jump64Reg condSlt dst src off s

/-- `jsle_imm`: 64-bit conditional jump (less or equal, signed) with an immediate (R235). -/
def execJsleImm (dst : Reg) (imm : Imm) (off : Off) (s : State) : Result :=
  jump64Imm condSle dst imm off s

/-- `jsle_reg`: 64-bit conditional jump (less or equal, signed) with a register (R236). -/
def execJsleReg (dst : Reg) (src : Reg) (off : Off) (s : State) : Result :=
  jump64Reg condSle dst src off s

end Sys2Proof.Machine
end

