-- ==== Sys2Proof/Machine/Legacy.lean ====
section
/-! DEFINITION. The legacy packet access instructions (spec/49_legacy_packet.md): named by the decoder, given no effect by the
spec, refused whatever LEGACY_PACKET says (R371; log 13). -/

namespace Sys2Proof.Machine

/-- `ldabsw`: deprecated packet access: the spec gives it no effect (log 13) (R372). -/
def execLdabsw (_dst : BitVec 4) (_src : BitVec 4) (_off : Off) (_imm : Imm) (s : State) : Result :=
  .refused (.legacy s.pc)

/-- `ldabsh`: deprecated packet access: the spec gives it no effect (log 13) (R373). -/
def execLdabsh (_dst : BitVec 4) (_src : BitVec 4) (_off : Off) (_imm : Imm) (s : State) : Result :=
  .refused (.legacy s.pc)

/-- `ldabsb`: deprecated packet access: the spec gives it no effect (log 13) (R374). -/
def execLdabsb (_dst : BitVec 4) (_src : BitVec 4) (_off : Off) (_imm : Imm) (s : State) : Result :=
  .refused (.legacy s.pc)

/-- `ldabsdw`: deprecated packet access: the spec gives it no effect (log 13) (R375). -/
def execLdabsdw (_dst : BitVec 4) (_src : BitVec 4) (_off : Off) (_imm : Imm) (s : State) : Result :=
  .refused (.legacy s.pc)

/-- `ldindw`: deprecated packet access: the spec gives it no effect (log 13) (R376). -/
def execLdindw (_dst : BitVec 4) (_src : BitVec 4) (_off : Off) (_imm : Imm) (s : State) : Result :=
  .refused (.legacy s.pc)

/-- `ldindh`: deprecated packet access: the spec gives it no effect (log 13) (R377). -/
def execLdindh (_dst : BitVec 4) (_src : BitVec 4) (_off : Off) (_imm : Imm) (s : State) : Result :=
  .refused (.legacy s.pc)

/-- `ldindb`: deprecated packet access: the spec gives it no effect (log 13) (R378). -/
def execLdindb (_dst : BitVec 4) (_src : BitVec 4) (_off : Off) (_imm : Imm) (s : State) : Result :=
  .refused (.legacy s.pc)

/-- `ldinddw`: deprecated packet access: the spec gives it no effect (log 13) (R379). -/
def execLdinddw (_dst : BitVec 4) (_src : BitVec 4) (_off : Off) (_imm : Imm) (s : State) : Result :=
  .refused (.legacy s.pc)

end Sys2Proof.Machine
end

