-- ==== Sys2Proof/Machine/LoadStore.lean ====
section
/-! DEFINITION. The regular loads and stores (spec/46_load_store.md). -/

namespace Sys2Proof.Machine

/-- Load `n` bytes (R296 to R298). -/
def load (n : Nat) (dst : WReg) (src : Reg) (off : Off) (s : State) : Result :=
  s.withReg src fun base => s.memRead (effAddr base off) n fun v s' => s'.finish dst v

/-- Store the low `n` bytes of the sign-extended immediate (R296 to R298). -/
def storeImm (n : Nat) (dst : Reg) (off : Off) (imm : Imm) (s : State) : Result :=
  s.withReg dst fun base => s.memWrite (effAddr base off) n (sext64 imm) fun s' => .next (s'.advance 1)

/-- Store the low `n` bytes of a register (R296 to R298). -/
def storeReg (n : Nat) (dst : Reg) (off : Off) (src : Reg) (s : State) : Result :=
  s.withReg dst fun base => s.withReg src fun v => s.memWrite (effAddr base off) n v fun s' => .next (s'.advance 1)

/-- `ldxw`: load 4 bytes, zero-extended (R300). -/
def execLdxw (dst : WReg) (src : Reg) (off : Off) (s : State) : Result :=
  load 4 dst src off s

/-- `ldxh`: load 2 bytes, zero-extended (R301). -/
def execLdxh (dst : WReg) (src : Reg) (off : Off) (s : State) : Result :=
  load 2 dst src off s

/-- `ldxb`: load 1 byte, zero-extended (R302). -/
def execLdxb (dst : WReg) (src : Reg) (off : Off) (s : State) : Result :=
  load 1 dst src off s

/-- `ldxdw`: load 8 bytes, zero-extended (R303). -/
def execLdxdw (dst : WReg) (src : Reg) (off : Off) (s : State) : Result :=
  load 8 dst src off s

/-- `stw`: store the low 4 bytes of the sign-extended immediate (R304). -/
def execStw (dst : Reg) (off : Off) (imm : Imm) (s : State) : Result :=
  storeImm 4 dst off imm s

/-- `sth`: store the low 2 bytes of the sign-extended immediate (R305). -/
def execSth (dst : Reg) (off : Off) (imm : Imm) (s : State) : Result :=
  storeImm 2 dst off imm s

/-- `stb`: store the low 1 byte of the sign-extended immediate (R306). -/
def execStb (dst : Reg) (off : Off) (imm : Imm) (s : State) : Result :=
  storeImm 1 dst off imm s

/-- `stdw`: store the low 8 bytes of the sign-extended immediate (R307). -/
def execStdw (dst : Reg) (off : Off) (imm : Imm) (s : State) : Result :=
  storeImm 8 dst off imm s

/-- `stxw`: store the low 4 bytes of a register (R308). -/
def execStxw (dst : Reg) (off : Off) (src : Reg) (s : State) : Result :=
  storeReg 4 dst off src s

/-- `stxh`: store the low 2 bytes of a register (R309). -/
def execStxh (dst : Reg) (off : Off) (src : Reg) (s : State) : Result :=
  storeReg 2 dst off src s

/-- `stxb`: store the low 1 byte of a register (R310). -/
def execStxb (dst : Reg) (off : Off) (src : Reg) (s : State) : Result :=
  storeReg 1 dst off src s

/-- `stxdw`: store the low 8 bytes of a register (R311). -/
def execStxdw (dst : Reg) (off : Off) (src : Reg) (s : State) : Result :=
  storeReg 8 dst off src s

end Sys2Proof.Machine
end

