-- ==== Sys2Proof/Machine/Fetch.lean ====
section
/-! DEFINITION. Fetching an instruction, and placing one where it is fetched (spec/20_memory.md R68,
spec/60_exceptions.md R409, R412). -/

namespace Sys2Proof.Machine

/-- The instruction at `pc`, or the fault of the fetch: past the last slot (R409), not an instruction (R412). -/
def State.fetch (s : State) : Except FaultKind Instr :=
  if s.prog.length ≤ s.pc then .error (.pcOutOfRange s.pc)
  else
    match decode s.cfg.endian s.cfg.localCallField (s.prog.drop s.pc) with
    | .ok i => .ok i
    | .error _ => .error (.illegalInstruction s.pc)

/-- A program text with two slots in place of those at `pc`, grown with zero slots where it is too short. -/
def placeSlots (prog : List Slot) (pc : Nat) (a b : Slot) : List Slot :=
  (prog.take pc ++ List.replicate (pc - prog.length) 0) ++ [a, b] ++ prog.drop (pc + 2)

/-- A slot given as the table's little-endian word `W`, in a byte order (spec/30_encoding.md R108). -/
def tableSlot (e : Endian) (w : Nat) : Slot := join e (split .little (BitVec.ofNat 64 w))

/-- The state with the table word `w` of `nbits` bits as the instruction at `pc`, running (log 3). -/
def State.placeWord (s : State) (nbits w : Nat) : State :=
  let v := w % 2 ^ nbits
  { s with
    prog := placeSlots s.prog s.pc (tableSlot s.cfg.endian v) (tableSlot s.cfg.endian (v >>> 64))
    status := .running }

end Sys2Proof.Machine
end

