-- ==== Sys2Proof/Machine/Step.lean ====
section
/-! DEFINITION. One step of a run. -/

namespace Sys2Proof.Machine

/-- One step: other agents act on shared regions, the instruction at `pc` is fetched and executed, or the fetch
faults (spec/20_memory.md R62, spec/60_exceptions.md R414). A run that is over has no next step
(spec/10_state.md R35). -/
def step (s : State) : Host.Outcome State Fault Refusal :=
  match s.status with
  | .running =>
    match s.takeEnv.fetch with
    | .ok i => exec i s.takeEnv
    | .error kind => s.takeEnv.raise kind
  | _ => .fault .runOver

/-- The state with one instruction, given as the opcode table's word, placed where `step` fetches next. -/
def State.withFetchWord (s : State) (nbits w : Nat) : State := s.placeWord nbits w

end Sys2Proof.Machine
end

