-- ==== Sys2Proof/Machine/Launch.lean ====
section
/-! DEFINITION. Load and launch: the well-formedness of a program (spec/30_encoding.md R109), its reasons of refusal
(spec/60_exceptions.md R405), the entry state (spec/70_reset_and_hazards.md R441), and what the environment must
have set up (spec/70_reset_and_hazards.md R445). -/

namespace Sys2Proof.Machine

/-! ## The program -/

/-- Decode slot after slot, each instruction starting where the one before ended: the instruction starts from `at_`
on, with their instructions, or the first slot that is not an instruction (R109 (2)). `fuel` is at least the number
of slots left. -/
def instrsFrom (e : Endian) (lcf : LocalCallField) : Nat → Nat → List Slot → Except Nat (List (Nat × Instr))
  | _, _, [] => .ok []
  | 0, at_, _ :: _ => .error at_
  | fuel + 1, at_, w :: rest =>
    match decode e lcf (w :: rest) with
    | .error _ => .error at_
    | .ok i =>
      match instrsFrom e lcf fuel (at_ + i.slots) ((w :: rest).drop i.slots) with
      | .error k => .error k
      | .ok is => .ok ((at_, i) :: is)

/-- The instruction starts of a program, with their instructions (R109 (2)). -/
def instrStarts (e : Endian) (lcf : LocalCallField) (prog : List Slot) : Except Nat (List (Nat × Instr)) :=
  instrsFrom e lcf prog.length 0 prog

/-- The displacement of an instruction that names a slot: a jump, a BPF-local call, a code address (R109 (3) to (5)). -/
def Instr.disp? (lcf : LocalCallField) (i : Instr) : Option Int :=
  match i with
  | .callLocal off imm => some (callDisp lcf off imm)
  | .ldCodeAddr _ imm => some imm.toInt
  | .ja off => some off.toInt
  | .jeqImm _ _ off => some off.toInt
  | .jeqReg _ _ off => some off.toInt
  | .jgtImm _ _ off => some off.toInt
  | .jgtReg _ _ off => some off.toInt
  | .jgeImm _ _ off => some off.toInt
  | .jgeReg _ _ off => some off.toInt
  | .jsetImm _ _ off => some off.toInt
  | .jsetReg _ _ off => some off.toInt
  | .jneImm _ _ off => some off.toInt
  | .jneReg _ _ off => some off.toInt
  | .jsgtImm _ _ off => some off.toInt
  | .jsgtReg _ _ off => some off.toInt
  | .jsgeImm _ _ off => some off.toInt
  | .jsgeReg _ _ off => some off.toInt
  | .jltImm _ _ off => some off.toInt
  | .jltReg _ _ off => some off.toInt
  | .jleImm _ _ off => some off.toInt
  | .jleReg _ _ off => some off.toInt
  | .jsltImm _ _ off => some off.toInt
  | .jsltReg _ _ off => some off.toInt
  | .jsleImm _ _ off => some off.toInt
  | .jsleReg _ _ off => some off.toInt
  | .jeq32Imm _ _ off => some off.toInt
  | .jeq32Reg _ _ off => some off.toInt
  | .jgt32Imm _ _ off => some off.toInt
  | .jgt32Reg _ _ off => some off.toInt
  | .jge32Imm _ _ off => some off.toInt
  | .jge32Reg _ _ off => some off.toInt
  | .jset32Imm _ _ off => some off.toInt
  | .jset32Reg _ _ off => some off.toInt
  | .jne32Imm _ _ off => some off.toInt
  | .jne32Reg _ _ off => some off.toInt
  | .jsgt32Imm _ _ off => some off.toInt
  | .jsgt32Reg _ _ off => some off.toInt
  | .jsge32Imm _ _ off => some off.toInt
  | .jsge32Reg _ _ off => some off.toInt
  | .jlt32Imm _ _ off => some off.toInt
  | .jlt32Reg _ _ off => some off.toInt
  | .jle32Imm _ _ off => some off.toInt
  | .jle32Reg _ _ off => some off.toInt
  | .jslt32Imm _ _ off => some off.toInt
  | .jslt32Reg _ _ off => some off.toInt
  | .jsle32Imm _ _ off => some off.toInt
  | .jsle32Reg _ _ off => some off.toInt
  | _ => none

/-- The instruction at slot `pos` names an instruction start, where it names a slot (R109 (3) to (5)). -/
def targetsStart (lcf : LocalCallField) (starts : List (Nat × Instr)) (pos : Nat) (i : Instr) : Bool :=
  match Instr.disp? lcf i with
  | none => true
  | some d =>
    match target? pos d with
    | none => false
    | some t => starts.any fun q => q.1 == t

/-- What R109 (3) to (8) and `SHIFT_POLICY` find wrong with the instruction at slot `pos`, if anything. The spec gives the
reasons no order; of several, the model reports the first in this one (DESIGN CHOICE, safe: log 25). -/
def instrProblem (cfg : Config) (starts : List (Nat × Instr)) (pos : Nat) (i : Instr) : Option Refusal :=
  if i.isLegacy then some (.legacy pos)
  else if !i.helperKnown cfg then some (.unknownHelper pos)
  else if !i.operandSupported cfg then some (.unsupported pos)
  else if !i.shiftInRange cfg then some (.shiftRange pos)
  else if !targetsStart cfg.localCallField starts pos i then some (.badTarget pos)
  else none

/-- Why a program is refused, none where it is well formed (R109, R405). The spec does not say which reason is reported
of several; the model reports the first slot that does not decode, else the first slot of an instruction with a problem
(DESIGN CHOICE, safe: log 25). -/
def programProblem (cfg : Config) (prog : List Slot) : Option Refusal :=
  match prog with
  | [] => some .empty
  | w :: rest =>
    match instrStarts cfg.endian cfg.localCallField (w :: rest) with
    | .error k => some (.notAnInstruction k)
    | .ok starts => starts.findSome? fun q => instrProblem cfg starts q.1 q.2

/-! ## The entry state -/

/-- The register file at entry (R441): R1 to Rk from `ENTRY_ARGS`, R10 the top of the depth-0 frame, the others undefined. -/
def entryRegs (cfg : Config) : RegFile :=
  Vector.ofFn fun i =>
    if i.val = 10 then ⟨Config.frameTop cfg 0, true⟩
    else if isArg i then
      match cfg.entryArgs[i.val - 1]? with
      | some a => ⟨a, true⟩
      | none => .blank
    else .blank

/-- The state at entry (R441) of a program, with what the environment left in the regions it owns (`mem`) and what
other agents will write (`env`). No byte of the depth-0 frame is written. -/
def entryState (cfg : Config) (prog : List Slot) (mem : Memory) (env : OtherAgents) : State where
  regs := entryRegs cfg
  pc := 0
  prog := prog
  frames := []
  mem := mem.forget (Config.frameBase cfg 0) cfg.stackSize
  status := .running
  cfg := cfg
  env := env
  draws := 1

/-- Load and launch (R445, R405): the entry state of a well-formed program, or the reason of refusal and no state. -/
def launch (cfg : Config) (prog : List Slot) (mem : Memory) (env : OtherAgents) : Result :=
  match programProblem cfg prog with
  | some r => .refused r
  | none => .next (entryState cfg prog mem env)

/-! ## The environment's duties -/

/-- Two ranges share no address (spec/20_memory.md R54). -/
def Region.disjoint (r q : Region) : Bool :=
  decide (r.base + r.len ≤ q.base) || decide (q.base + q.len ≤ r.base)

/-- Every region a run of the configuration may ever have: those listed, and the frame of every depth. -/
def Config.allRegions (cfg : Config) : List Region :=
  Config.dataRegions cfg ++ (List.range (Config.maxCallDepth cfg + 1)).map (Config.frameRegion cfg)

/-- What the environment must have set up (R445, R54): regions inside the address space and pairwise disjoint, at
most five arguments, and no value area of a map in a frame, which is private (spec/48_imm64.md R357). -/
abbrev Config.sound (cfg : Config) : Prop :=
  (∀ r ∈ Config.allRegions cfg, r.base + r.len ≤ 2 ^ 64) ∧
  (Config.allRegions cfg).Pairwise (fun r q => Region.disjoint r q = true) ∧
  cfg.entryArgs.length ≤ 5 ∧
  ∀ r ∈ Config.allRegions cfg, Config.isValueArea cfg r = true → r.shared = true

end Sys2Proof.Machine
end

