-- ==== Sys2Proof/Safety.lean ====
section
/-! DEFINITION. What claims speak of: runs, safe runs and their end (spec/60_exceptions.md R401, R403,
spec/70_reset_and_hazards.md R447), what an instruction reads, writes and stores to (spec/10_state.md R37,
spec/20_memory.md R69), and the invariants of the machine. -/

namespace Sys2Proof.Machine

/-! ## Runs -/

/-- The states a run reaches from a state. -/
inductive Reaches : State → State → Prop where
  | here (s : State) : Reaches s s
  | next {s t u : State} : Reaches s t → step t = .next u → Reaches s u

/-- `faulted(kind, info)`: terminal, and not an end a claim may accept (R403). -/
def State.isFaulted (s : State) : Bool :=
  match s.status with
  | .faulted _ => true
  | _ => false

/-- The only final status (R447): the program exited, and `v` is its exit value. -/
def State.exitsWith (s : State) (v : Word) : Bool := decide (s.status = .exited v)

/-- A state from which no run comes to a fault of the spec, nor to an instruction the spec gives no effect. -/
def Safe (s : State) : Prop :=
  ∀ t, Reaches s t → t.isFaulted = false ∧ ∀ r, step t ≠ .refused r

/-- A run from the state ends with exit value `v` (R447). -/
def EndsWith (s : State) (v : Word) : Prop := ∃ t, Reaches s t ∧ t.exitsWith v = true

/-- The premise that the helper `id` of a numbering space keeps to the relation `rel` between argument values, memory
contents and outcomes (spec/45_call_exit.md R278; log 9): every outcome drawn for it, where no case the platform states
applies, is one `rel` allows. A claim about a program that calls the helper may take it. -/
def HelperObeys (cfg : Config) (space : HelperSpace) (id : Imm)
    (rel : List Word → (Nat → Option Byte) → HelperOutcome → Prop) : Prop :=
  ∀ (s : State) (args : List Word), s.cfg = cfg →
    rel args s.byteAt (Config.helperOutcome cfg space id args s.mem s.live s.draws)

/-! ## Next states -/

/-- Register `d` holds `v`, defined; the program counter has passed `slots` slots; nothing else has changed. -/
def State.wrote (s : State) (d : WReg) (v : Word) (slots : Nat) : State :=
  { s with regs := s.regs.set d.val ⟨v, true⟩ (by omega), pc := s.pc + slots }

/-- The program counter is `n`; nothing else has changed. -/
def State.at (s : State) (n : Nat) : State := { s with pc := n }

/-- The run is over in `faulted(kind, info)`; nothing else has changed (R404). -/
def State.faultedWith (s : State) (k : FaultKind) : State := { s with status := .faulted k }

/-- The bytes of `v` stand at `a` in the byte order of the machine, and the program counter has passed one slot;
nothing else has changed. -/
def State.stored (s : State) (a : Word) (n : Nat) (v : Word) : State :=
  { s with mem := s.mem.putBytes a.toNat (toBytes s.cfg.endian n v), pc := s.pc + 1 }

/-! ## What an instruction reads, writes and stores to -/

/-- The registers an instruction reads, in the order it reads them (spec/10_state.md R37, spec/60_exceptions.md R414). -/
def Instr.reads (s : State) : Instr → List Reg
  | .add64Imm dst _ => [dst.toReg]
  | .add64Reg dst src => [dst.toReg, src]
  | .sub64Imm dst _ => [dst.toReg]
  | .sub64Reg dst src => [dst.toReg, src]
  | .mul64Imm dst _ => [dst.toReg]
  | .mul64Reg dst src => [dst.toReg, src]
  | .div64Imm dst _ => [dst.toReg]
  | .div64Reg dst src => [dst.toReg, src]
  | .or64Imm dst _ => [dst.toReg]
  | .or64Reg dst src => [dst.toReg, src]
  | .and64Imm dst _ => [dst.toReg]
  | .and64Reg dst src => [dst.toReg, src]
  | .lsh64Imm dst _ => [dst.toReg]
  | .lsh64Reg dst src => [dst.toReg, src]
  | .rsh64Imm dst _ => [dst.toReg]
  | .rsh64Reg dst src => [dst.toReg, src]
  | .neg64 dst => [dst.toReg]
  | .mod64Imm dst _ => [dst.toReg]
  | .mod64Reg dst src => [dst.toReg, src]
  | .xor64Imm dst _ => [dst.toReg]
  | .xor64Reg dst src => [dst.toReg, src]
  | .mov64Imm _ _ => []
  | .mov64Reg _ src => [src]
  | .arsh64Imm dst _ => [dst.toReg]
  | .arsh64Reg dst src => [dst.toReg, src]
  | .add32Imm dst _ => [dst.toReg]
  | .add32Reg dst src => [dst.toReg, src]
  | .sub32Imm dst _ => [dst.toReg]
  | .sub32Reg dst src => [dst.toReg, src]
  | .mul32Imm dst _ => [dst.toReg]
  | .mul32Reg dst src => [dst.toReg, src]
  | .div32Imm dst _ => [dst.toReg]
  | .div32Reg dst src => [dst.toReg, src]
  | .or32Imm dst _ => [dst.toReg]
  | .or32Reg dst src => [dst.toReg, src]
  | .and32Imm dst _ => [dst.toReg]
  | .and32Reg dst src => [dst.toReg, src]
  | .lsh32Imm dst _ => [dst.toReg]
  | .lsh32Reg dst src => [dst.toReg, src]
  | .rsh32Imm dst _ => [dst.toReg]
  | .rsh32Reg dst src => [dst.toReg, src]
  | .neg32 dst => [dst.toReg]
  | .mod32Imm dst _ => [dst.toReg]
  | .mod32Reg dst src => [dst.toReg, src]
  | .xor32Imm dst _ => [dst.toReg]
  | .xor32Reg dst src => [dst.toReg, src]
  | .mov32Imm _ _ => []
  | .mov32Reg _ src => [src]
  | .arsh32Imm dst _ => [dst.toReg]
  | .arsh32Reg dst src => [dst.toReg, src]
  | .le16 dst => [dst.toReg]
  | .le32 dst => [dst.toReg]
  | .le64 dst => [dst.toReg]
  | .be16 dst => [dst.toReg]
  | .be32 dst => [dst.toReg]
  | .be64 dst => [dst.toReg]
  | .ja _ => []
  | .jeqImm dst _ _ => [dst]
  | .jeqReg dst src _ => [dst, src]
  | .jgtImm dst _ _ => [dst]
  | .jgtReg dst src _ => [dst, src]
  | .jgeImm dst _ _ => [dst]
  | .jgeReg dst src _ => [dst, src]
  | .jsetImm dst _ _ => [dst]
  | .jsetReg dst src _ => [dst, src]
  | .jneImm dst _ _ => [dst]
  | .jneReg dst src _ => [dst, src]
  | .jsgtImm dst _ _ => [dst]
  | .jsgtReg dst src _ => [dst, src]
  | .jsgeImm dst _ _ => [dst]
  | .jsgeReg dst src _ => [dst, src]
  | .jltImm dst _ _ => [dst]
  | .jltReg dst src _ => [dst, src]
  | .jleImm dst _ _ => [dst]
  | .jleReg dst src _ => [dst, src]
  | .jsltImm dst _ _ => [dst]
  | .jsltReg dst src _ => [dst, src]
  | .jsleImm dst _ _ => [dst]
  | .jsleReg dst src _ => [dst, src]
  | .jeq32Imm dst _ _ => [dst]
  | .jeq32Reg dst src _ => [dst, src]
  | .jgt32Imm dst _ _ => [dst]
  | .jgt32Reg dst src _ => [dst, src]
  | .jge32Imm dst _ _ => [dst]
  | .jge32Reg dst src _ => [dst, src]
  | .jset32Imm dst _ _ => [dst]
  | .jset32Reg dst src _ => [dst, src]
  | .jne32Imm dst _ _ => [dst]
  | .jne32Reg dst src _ => [dst, src]
  | .jsgt32Imm dst _ _ => [dst]
  | .jsgt32Reg dst src _ => [dst, src]
  | .jsge32Imm dst _ _ => [dst]
  | .jsge32Reg dst src _ => [dst, src]
  | .jlt32Imm dst _ _ => [dst]
  | .jlt32Reg dst src _ => [dst, src]
  | .jle32Imm dst _ _ => [dst]
  | .jle32Reg dst src _ => [dst, src]
  | .jslt32Imm dst _ _ => [dst]
  | .jslt32Reg dst src _ => [dst, src]
  | .jsle32Imm dst _ _ => [dst]
  | .jsle32Reg dst src _ => [dst, src]
  | .callHelper id => (s.cfg.helpersAgnostic.lookup id).elim [] fun h => argRegs h.arity
  | .callLocal _ _ => []
  | .callPlatform id => (s.cfg.helpersPlatform.lookup id).elim [] fun h => argRegs h.arity
  | .exit => if s.frames = [] then [0] else []
  | .ldxw _ src _ => [src]
  | .ldxh _ src _ => [src]
  | .ldxb _ src _ => [src]
  | .ldxdw _ src _ => [src]
  | .stw dst _ _ => [dst]
  | .sth dst _ _ => [dst]
  | .stb dst _ _ => [dst]
  | .stdw dst _ _ => [dst]
  | .stxw dst _ src => [dst, src]
  | .stxh dst _ src => [dst, src]
  | .stxb dst _ src => [dst, src]
  | .stxdw dst _ src => [dst, src]
  | .atomicAdd32 dst _ src => [dst, src]
  | .atomicFetchAdd32 dst _ src => [dst, src.toReg]
  | .atomicOr32 dst _ src => [dst, src]
  | .atomicFetchOr32 dst _ src => [dst, src.toReg]
  | .atomicAnd32 dst _ src => [dst, src]
  | .atomicFetchAnd32 dst _ src => [dst, src.toReg]
  | .atomicXor32 dst _ src => [dst, src]
  | .atomicFetchXor32 dst _ src => [dst, src.toReg]
  | .atomicXchg32 dst _ src => [dst, src.toReg]
  | .atomicCmpxchg32 dst _ src => [dst, src, 0]
  | .atomicAdd64 dst _ src => [dst, src]
  | .atomicFetchAdd64 dst _ src => [dst, src.toReg]
  | .atomicOr64 dst _ src => [dst, src]
  | .atomicFetchOr64 dst _ src => [dst, src.toReg]
  | .atomicAnd64 dst _ src => [dst, src]
  | .atomicFetchAnd64 dst _ src => [dst, src.toReg]
  | .atomicXor64 dst _ src => [dst, src]
  | .atomicFetchXor64 dst _ src => [dst, src.toReg]
  | .atomicXchg64 dst _ src => [dst, src.toReg]
  | .atomicCmpxchg64 dst _ src => [dst, src, 0]
  | .lddw _ _ _ => []
  | .ldMapFd _ _ => []
  | .ldMapFdValue _ _ _ => []
  | .ldVarAddr _ _ => []
  | .ldCodeAddr _ _ => []
  | .ldMapIdx _ _ => []
  | .ldMapIdxValue _ _ _ => []
  | .ldabsw _ _ _ _ => []
  | .ldabsh _ _ _ _ => []
  | .ldabsb _ _ _ _ => []
  | .ldabsdw _ _ _ _ => []
  | .ldindw _ _ _ _ => []
  | .ldindh _ _ _ _ => []
  | .ldindb _ _ _ _ => []
  | .ldinddw _ _ _ _ => []

/-- The first register of a list that is marked undefined. -/
def State.firstUndefined (s : State) (rs : List Reg) : Option Reg := rs.find? fun r => !(s.reg r).defd

/-- The registers an instruction may write or make undefined (spec/10_state.md R37). -/
def Instr.writes : Instr → List Reg
  | .add64Imm dst _ => [dst.toReg]
  | .add64Reg dst _ => [dst.toReg]
  | .sub64Imm dst _ => [dst.toReg]
  | .sub64Reg dst _ => [dst.toReg]
  | .mul64Imm dst _ => [dst.toReg]
  | .mul64Reg dst _ => [dst.toReg]
  | .div64Imm dst _ => [dst.toReg]
  | .div64Reg dst _ => [dst.toReg]
  | .or64Imm dst _ => [dst.toReg]
  | .or64Reg dst _ => [dst.toReg]
  | .and64Imm dst _ => [dst.toReg]
  | .and64Reg dst _ => [dst.toReg]
  | .lsh64Imm dst _ => [dst.toReg]
  | .lsh64Reg dst _ => [dst.toReg]
  | .rsh64Imm dst _ => [dst.toReg]
  | .rsh64Reg dst _ => [dst.toReg]
  | .neg64 dst => [dst.toReg]
  | .mod64Imm dst _ => [dst.toReg]
  | .mod64Reg dst _ => [dst.toReg]
  | .xor64Imm dst _ => [dst.toReg]
  | .xor64Reg dst _ => [dst.toReg]
  | .mov64Imm dst _ => [dst.toReg]
  | .mov64Reg dst _ => [dst.toReg]
  | .arsh64Imm dst _ => [dst.toReg]
  | .arsh64Reg dst _ => [dst.toReg]
  | .add32Imm dst _ => [dst.toReg]
  | .add32Reg dst _ => [dst.toReg]
  | .sub32Imm dst _ => [dst.toReg]
  | .sub32Reg dst _ => [dst.toReg]
  | .mul32Imm dst _ => [dst.toReg]
  | .mul32Reg dst _ => [dst.toReg]
  | .div32Imm dst _ => [dst.toReg]
  | .div32Reg dst _ => [dst.toReg]
  | .or32Imm dst _ => [dst.toReg]
  | .or32Reg dst _ => [dst.toReg]
  | .and32Imm dst _ => [dst.toReg]
  | .and32Reg dst _ => [dst.toReg]
  | .lsh32Imm dst _ => [dst.toReg]
  | .lsh32Reg dst _ => [dst.toReg]
  | .rsh32Imm dst _ => [dst.toReg]
  | .rsh32Reg dst _ => [dst.toReg]
  | .neg32 dst => [dst.toReg]
  | .mod32Imm dst _ => [dst.toReg]
  | .mod32Reg dst _ => [dst.toReg]
  | .xor32Imm dst _ => [dst.toReg]
  | .xor32Reg dst _ => [dst.toReg]
  | .mov32Imm dst _ => [dst.toReg]
  | .mov32Reg dst _ => [dst.toReg]
  | .arsh32Imm dst _ => [dst.toReg]
  | .arsh32Reg dst _ => [dst.toReg]
  | .le16 dst => [dst.toReg]
  | .le32 dst => [dst.toReg]
  | .le64 dst => [dst.toReg]
  | .be16 dst => [dst.toReg]
  | .be32 dst => [dst.toReg]
  | .be64 dst => [dst.toReg]
  | .ja _ => []
  | .jeqImm _ _ _ => []
  | .jeqReg _ _ _ => []
  | .jgtImm _ _ _ => []
  | .jgtReg _ _ _ => []
  | .jgeImm _ _ _ => []
  | .jgeReg _ _ _ => []
  | .jsetImm _ _ _ => []
  | .jsetReg _ _ _ => []
  | .jneImm _ _ _ => []
  | .jneReg _ _ _ => []
  | .jsgtImm _ _ _ => []
  | .jsgtReg _ _ _ => []
  | .jsgeImm _ _ _ => []
  | .jsgeReg _ _ _ => []
  | .jltImm _ _ _ => []
  | .jltReg _ _ _ => []
  | .jleImm _ _ _ => []
  | .jleReg _ _ _ => []
  | .jsltImm _ _ _ => []
  | .jsltReg _ _ _ => []
  | .jsleImm _ _ _ => []
  | .jsleReg _ _ _ => []
  | .jeq32Imm _ _ _ => []
  | .jeq32Reg _ _ _ => []
  | .jgt32Imm _ _ _ => []
  | .jgt32Reg _ _ _ => []
  | .jge32Imm _ _ _ => []
  | .jge32Reg _ _ _ => []
  | .jset32Imm _ _ _ => []
  | .jset32Reg _ _ _ => []
  | .jne32Imm _ _ _ => []
  | .jne32Reg _ _ _ => []
  | .jsgt32Imm _ _ _ => []
  | .jsgt32Reg _ _ _ => []
  | .jsge32Imm _ _ _ => []
  | .jsge32Reg _ _ _ => []
  | .jlt32Imm _ _ _ => []
  | .jlt32Reg _ _ _ => []
  | .jle32Imm _ _ _ => []
  | .jle32Reg _ _ _ => []
  | .jslt32Imm _ _ _ => []
  | .jslt32Reg _ _ _ => []
  | .jsle32Imm _ _ _ => []
  | .jsle32Reg _ _ _ => []
  | .callHelper _ => [0, 1, 2, 3, 4, 5]
  | .callLocal _ _ => [0, 6, 7, 8, 9, 10]
  | .callPlatform _ => [0, 1, 2, 3, 4, 5]
  | .exit => [1, 2, 3, 4, 5, 6, 7, 8, 9, 10]
  | .ldxw dst _ _ => [dst.toReg]
  | .ldxh dst _ _ => [dst.toReg]
  | .ldxb dst _ _ => [dst.toReg]
  | .ldxdw dst _ _ => [dst.toReg]
  | .stw _ _ _ => []
  | .sth _ _ _ => []
  | .stb _ _ _ => []
  | .stdw _ _ _ => []
  | .stxw _ _ _ => []
  | .stxh _ _ _ => []
  | .stxb _ _ _ => []
  | .stxdw _ _ _ => []
  | .atomicAdd32 _ _ _ => []
  | .atomicFetchAdd32 _ _ src => [src.toReg]
  | .atomicOr32 _ _ _ => []
  | .atomicFetchOr32 _ _ src => [src.toReg]
  | .atomicAnd32 _ _ _ => []
  | .atomicFetchAnd32 _ _ src => [src.toReg]
  | .atomicXor32 _ _ _ => []
  | .atomicFetchXor32 _ _ src => [src.toReg]
  | .atomicXchg32 _ _ src => [src.toReg]
  | .atomicCmpxchg32 _ _ _ => [0]
  | .atomicAdd64 _ _ _ => []
  | .atomicFetchAdd64 _ _ src => [src.toReg]
  | .atomicOr64 _ _ _ => []
  | .atomicFetchOr64 _ _ src => [src.toReg]
  | .atomicAnd64 _ _ _ => []
  | .atomicFetchAnd64 _ _ src => [src.toReg]
  | .atomicXor64 _ _ _ => []
  | .atomicFetchXor64 _ _ src => [src.toReg]
  | .atomicXchg64 _ _ src => [src.toReg]
  | .atomicCmpxchg64 _ _ _ => [0]
  | .lddw dst _ _ => [dst.toReg]
  | .ldMapFd dst _ => [dst.toReg]
  | .ldMapFdValue dst _ _ => [dst.toReg]
  | .ldVarAddr dst _ => [dst.toReg]
  | .ldCodeAddr dst _ => [dst.toReg]
  | .ldMapIdx dst _ => [dst.toReg]
  | .ldMapIdxValue dst _ _ => [dst.toReg]
  | .ldabsw _ _ _ _ => []
  | .ldabsh _ _ _ _ => []
  | .ldabsb _ _ _ _ => []
  | .ldabsdw _ _ _ _ => []
  | .ldindw _ _ _ _ => []
  | .ldindh _ _ _ _ => []
  | .ldindb _ _ _ _ => []
  | .ldinddw _ _ _ _ => []

/-- The stores and atomic operations: base register, offset and number of bytes stored (spec/20_memory.md R69). -/
def Instr.storesTo : Instr → Option (Reg × Off × Nat)
  | .stw dst off _ => some (dst, off, 4)
  | .sth dst off _ => some (dst, off, 2)
  | .stb dst off _ => some (dst, off, 1)
  | .stdw dst off _ => some (dst, off, 8)
  | .stxw dst off _ => some (dst, off, 4)
  | .stxh dst off _ => some (dst, off, 2)
  | .stxb dst off _ => some (dst, off, 1)
  | .stxdw dst off _ => some (dst, off, 8)
  | .atomicAdd32 dst off _ => some (dst, off, 4)
  | .atomicFetchAdd32 dst off _ => some (dst, off, 4)
  | .atomicOr32 dst off _ => some (dst, off, 4)
  | .atomicFetchOr32 dst off _ => some (dst, off, 4)
  | .atomicAnd32 dst off _ => some (dst, off, 4)
  | .atomicFetchAnd32 dst off _ => some (dst, off, 4)
  | .atomicXor32 dst off _ => some (dst, off, 4)
  | .atomicFetchXor32 dst off _ => some (dst, off, 4)
  | .atomicXchg32 dst off _ => some (dst, off, 4)
  | .atomicCmpxchg32 dst off _ => some (dst, off, 4)
  | .atomicAdd64 dst off _ => some (dst, off, 8)
  | .atomicFetchAdd64 dst off _ => some (dst, off, 8)
  | .atomicOr64 dst off _ => some (dst, off, 8)
  | .atomicFetchOr64 dst off _ => some (dst, off, 8)
  | .atomicAnd64 dst off _ => some (dst, off, 8)
  | .atomicFetchAnd64 dst off _ => some (dst, off, 8)
  | .atomicXor64 dst off _ => some (dst, off, 8)
  | .atomicFetchXor64 dst off _ => some (dst, off, 8)
  | .atomicXchg64 dst off _ => some (dst, off, 8)
  | .atomicCmpxchg64 dst off _ => some (dst, off, 8)
  | _ => none

/-- The atomic operations (spec/47_atomic.md R320). -/
def Instr.isAtomic : Instr → Bool
  | .atomicAdd32 _ _ _ => true
  | .atomicFetchAdd32 _ _ _ => true
  | .atomicOr32 _ _ _ => true
  | .atomicFetchOr32 _ _ _ => true
  | .atomicAnd32 _ _ _ => true
  | .atomicFetchAnd32 _ _ _ => true
  | .atomicXor32 _ _ _ => true
  | .atomicFetchXor32 _ _ _ => true
  | .atomicXchg32 _ _ _ => true
  | .atomicCmpxchg32 _ _ _ => true
  | .atomicAdd64 _ _ _ => true
  | .atomicFetchAdd64 _ _ _ => true
  | .atomicOr64 _ _ _ => true
  | .atomicFetchOr64 _ _ _ => true
  | .atomicAnd64 _ _ _ => true
  | .atomicFetchAnd64 _ _ _ => true
  | .atomicXor64 _ _ _ => true
  | .atomicFetchXor64 _ _ _ => true
  | .atomicXchg64 _ _ _ => true
  | .atomicCmpxchg64 _ _ _ => true
  | _ => false

/-- Every instruction whose memory access is a regular load or store, with what it needs and where
(spec/20_memory.md R69): base register, offset, bytes, permission. -/
def Instr.regularAccess : Instr → Option (Reg × Off × Nat × Access)
  | .ldxw _ src off => some (src, off, 4, .read)
  | .ldxh _ src off => some (src, off, 2, .read)
  | .ldxb _ src off => some (src, off, 1, .read)
  | .ldxdw _ src off => some (src, off, 8, .read)
  | .stw dst off _ => some (dst, off, 4, .write)
  | .sth dst off _ => some (dst, off, 2, .write)
  | .stb dst off _ => some (dst, off, 1, .write)
  | .stdw dst off _ => some (dst, off, 8, .write)
  | .stxw dst off _ => some (dst, off, 4, .write)
  | .stxh dst off _ => some (dst, off, 2, .write)
  | .stxb dst off _ => some (dst, off, 1, .write)
  | .stxdw dst off _ => some (dst, off, 8, .write)
  | _ => none

/-- A BPF-local call, BPF_EXIT or a helper call: the instructions that change memory or the frames otherwise than by
a store to an address they form. -/
def Instr.isCallOrExit : Instr → Bool
  | .callHelper _ => true
  | .callLocal _ _ => true
  | .callPlatform _ => true
  | .exit => true
  | _ => false

/-! ## Invariants -/

/-- Each record holds the frame pointer of the depth it returns to (spec/10_state.md R31, R33). -/
def recordsOk (cfg : Config) : List CallRecord → Prop
  | [] => True
  | r :: rest => r.saved10 = ⟨Config.frameTop cfg rest.length, true⟩ ∧ recordsOk cfg rest

/-- R10 is defined and points one past the frame of the current depth, which is at most `MAX_CALL_DEPTH`
(spec/10_state.md R22, R31, R33). -/
def State.framePointerOk (s : State) : Prop :=
  s.reg 10 = ⟨Config.frameTop s.cfg s.frames.length, true⟩ ∧ recordsOk s.cfg s.frames ∧
  s.frames.length ≤ Config.maxCallDepth s.cfg

/-- A slot index is an instruction start of the program, or its end (spec/30_encoding.md R109, spec/10_state.md R26). -/
def State.startOrEnd (s : State) (p : Nat) : Prop :=
  ∃ starts, instrStarts s.cfg.endian s.cfg.localCallField s.prog = .ok starts ∧
    (p = s.prog.length ∨ ∃ i, (p, i) ∈ starts)

/-- The program is well formed, and every position the run can be at or return to is an instruction start or the end
(spec/30_encoding.md R109, spec/60_exceptions.md R412). -/
def State.textOk (s : State) : Prop :=
  programProblem s.cfg s.prog = none ∧ s.startOrEnd s.pc ∧ ∀ r ∈ s.frames, s.startOrEnd r.retPc

end Sys2Proof.Machine
end

