-- ==== Sys2Proof/Certificates/Slice0/Obligations.lean ====
section
/-! DEFINITION. The statements for the provers. Each says what the model does, in the words of a rule of spec/ where
its basis is stated; OBLIGATIONS.json lists them with their rules. -/

open Sys2Proof Sys2Proof.Machine

/-- 64-bit arithmetic with an immediate: exact next state. -/
def Obligations.Alu64ImmResult : Prop :=
  ∀ (s : State) (d : WReg) (imm : Imm) (a : Word), s.reg d.toReg = ⟨a, true⟩ →
    exec (.add64Imm d imm) s = .next (s.wrote d (a + (imm.signExtend 64)) 1) ∧
    exec (.sub64Imm d imm) s = .next (s.wrote d (a - (imm.signExtend 64)) 1) ∧
    exec (.mul64Imm d imm) s = .next (s.wrote d (a * (imm.signExtend 64)) 1) ∧
    exec (.or64Imm d imm) s = .next (s.wrote d (a ||| (imm.signExtend 64)) 1) ∧
    exec (.and64Imm d imm) s = .next (s.wrote d (a &&& (imm.signExtend 64)) 1) ∧
    exec (.xor64Imm d imm) s = .next (s.wrote d (a ^^^ (imm.signExtend 64)) 1)

/-- 64-bit arithmetic with a register: exact next state. -/
def Obligations.Alu64RegResult : Prop :=
  ∀ (s : State) (d : WReg) (src : Reg) (a b : Word), s.reg d.toReg = ⟨a, true⟩ → s.reg src = ⟨b, true⟩ →
    exec (.add64Reg d src) s = .next (s.wrote d (a + b) 1) ∧
    exec (.sub64Reg d src) s = .next (s.wrote d (a - b) 1) ∧
    exec (.mul64Reg d src) s = .next (s.wrote d (a * b) 1) ∧
    exec (.or64Reg d src) s = .next (s.wrote d (a ||| b) 1) ∧
    exec (.and64Reg d src) s = .next (s.wrote d (a &&& b) 1) ∧
    exec (.xor64Reg d src) s = .next (s.wrote d (a ^^^ b) 1)

/-- 32-bit arithmetic with an immediate: exact next state. -/
def Obligations.Alu32ImmResult : Prop :=
  ∀ (s : State) (d : WReg) (imm : Imm) (a : Word), s.reg d.toReg = ⟨a, true⟩ →
    exec (.add32Imm d imm) s = .next (s.wrote d (((a.setWidth 32) + imm).setWidth 64) 1) ∧
    exec (.sub32Imm d imm) s = .next (s.wrote d (((a.setWidth 32) - imm).setWidth 64) 1) ∧
    exec (.mul32Imm d imm) s = .next (s.wrote d (((a.setWidth 32) * imm).setWidth 64) 1) ∧
    exec (.or32Imm d imm) s = .next (s.wrote d (((a.setWidth 32) ||| imm).setWidth 64) 1) ∧
    exec (.and32Imm d imm) s = .next (s.wrote d (((a.setWidth 32) &&& imm).setWidth 64) 1) ∧
    exec (.xor32Imm d imm) s = .next (s.wrote d (((a.setWidth 32) ^^^ imm).setWidth 64) 1)

/-- 32-bit arithmetic with a register: exact next state. -/
def Obligations.Alu32RegResult : Prop :=
  ∀ (s : State) (d : WReg) (src : Reg) (a b : Word), s.reg d.toReg = ⟨a, true⟩ → s.reg src = ⟨b, true⟩ →
    exec (.add32Reg d src) s = .next (s.wrote d (((a.setWidth 32) + (b.setWidth 32)).setWidth 64) 1) ∧
    exec (.sub32Reg d src) s = .next (s.wrote d (((a.setWidth 32) - (b.setWidth 32)).setWidth 64) 1) ∧
    exec (.mul32Reg d src) s = .next (s.wrote d (((a.setWidth 32) * (b.setWidth 32)).setWidth 64) 1) ∧
    exec (.or32Reg d src) s = .next (s.wrote d (((a.setWidth 32) ||| (b.setWidth 32)).setWidth 64) 1) ∧
    exec (.and32Reg d src) s = .next (s.wrote d (((a.setWidth 32) &&& (b.setWidth 32)).setWidth 64) 1) ∧
    exec (.xor32Reg d src) s = .next (s.wrote d (((a.setWidth 32) ^^^ (b.setWidth 32)).setWidth 64) 1)

/-- Moves read no destination; negation is two's complement. -/
def Obligations.MoveNegateResult : Prop :=
  ∀ (s : State) (d : WReg) (src : Reg) (imm : Imm) (a b : Word),
    exec (.mov64Imm d imm) s = .next (s.wrote d (imm.signExtend 64) 1) ∧
    exec (.mov32Imm d imm) s = .next (s.wrote d (imm.setWidth 64) 1) ∧
    (s.reg src = ⟨b, true⟩ →
      exec (.mov64Reg d src) s = .next (s.wrote d b 1) ∧
      exec (.mov32Reg d src) s = .next (s.wrote d ((b.setWidth 32).setWidth 64) 1)) ∧
    (s.reg d.toReg = ⟨a, true⟩ →
      exec (.neg64 d) s = .next (s.wrote d (-a) 1) ∧
      exec (.neg32 d) s = .next (s.wrote d ((-(a.setWidth 32)).setWidth 64) 1))

/-- Rules R122 and R162: the quotient and the remainder by what defines them, the zero divisor included. -/
def Obligations.DivModUnsigned : Prop :=
  ∀ (s : State) (d : WReg) (src : Reg) (imm : Imm) (a b : Word), s.reg d.toReg = ⟨a, true⟩ →
    (∃ q : Word, exec (.div64Imm d imm) s = .next (s.wrote d q 1) ∧ ((imm.signExtend 64) = 0 → q = 0) ∧
      ((imm.signExtend 64) ≠ 0 → q.toNat * (imm.signExtend 64).toNat ≤ a.toNat ∧ a.toNat < (q.toNat + 1) * (imm.signExtend 64).toNat)) ∧
    (∃ r : Word, exec (.mod64Imm d imm) s = .next (s.wrote d r 1) ∧ ((imm.signExtend 64) = 0 → r = a) ∧
      ((imm.signExtend 64) ≠ 0 → r.toNat < (imm.signExtend 64).toNat ∧ ∃ q : Nat, a.toNat = q * (imm.signExtend 64).toNat + r.toNat)) ∧
    (∃ q : BitVec 32, exec (.div32Imm d imm) s = .next (s.wrote d (q.setWidth 64) 1) ∧ (imm = 0 → q = 0) ∧
      (imm ≠ 0 → q.toNat * imm.toNat ≤ (a.setWidth 32).toNat ∧ (a.setWidth 32).toNat < (q.toNat + 1) * imm.toNat)) ∧
    (∃ r : BitVec 32, exec (.mod32Imm d imm) s = .next (s.wrote d (r.setWidth 64) 1) ∧ (imm = 0 → r = (a.setWidth 32)) ∧
      (imm ≠ 0 → r.toNat < imm.toNat ∧ ∃ q : Nat, (a.setWidth 32).toNat = q * imm.toNat + r.toNat)) ∧
    (s.reg src = ⟨b, true⟩ →
    (∃ q : Word, exec (.div64Reg d src) s = .next (s.wrote d q 1) ∧ (b = 0 → q = 0) ∧
      (b ≠ 0 → q.toNat * b.toNat ≤ a.toNat ∧ a.toNat < (q.toNat + 1) * b.toNat)) ∧
    (∃ r : Word, exec (.mod64Reg d src) s = .next (s.wrote d r 1) ∧ (b = 0 → r = a) ∧
      (b ≠ 0 → r.toNat < b.toNat ∧ ∃ q : Nat, a.toNat = q * b.toNat + r.toNat)) ∧
    (∃ q : BitVec 32, exec (.div32Reg d src) s = .next (s.wrote d (q.setWidth 64) 1) ∧ ((b.setWidth 32) = 0 → q = 0) ∧
      ((b.setWidth 32) ≠ 0 → q.toNat * (b.setWidth 32).toNat ≤ (a.setWidth 32).toNat ∧ (a.setWidth 32).toNat < (q.toNat + 1) * (b.setWidth 32).toNat)) ∧
    (∃ r : BitVec 32, exec (.mod32Reg d src) s = .next (s.wrote d (r.setWidth 64) 1) ∧ ((b.setWidth 32) = 0 → r = (a.setWidth 32)) ∧
      ((b.setWidth 32) ≠ 0 → r.toNat < (b.setWidth 32).toNat ∧ ∃ q : Nat, (a.setWidth 32).toNat = q * (b.setWidth 32).toNat + r.toNat)))

/-- Shifts, both values of SHIFT_POLICY (R123); an out-of-range amount of an immediate is one whose sign extension, read as unsigned, is 64 or more. That exec of a shift out of range, immediate or register, answers a refusal with `refuse` is the model's (log 12). -/
def Obligations.Shift64Amounts : Prop :=
  ∀ (s : State) (d : WReg) (src : Reg) (imm : Imm) (a b : Word), s.reg d.toReg = ⟨a, true⟩ →
    (s.cfg.shiftPolicy = .mask ∨ (imm.signExtend 64).toNat < 64 →
    exec (.lsh64Imm d imm) s = .next (s.wrote d (a <<< ((imm.signExtend 64).toNat % 64)) 1) ∧
    exec (.rsh64Imm d imm) s = .next (s.wrote d (a >>> ((imm.signExtend 64).toNat % 64)) 1) ∧
    exec (.arsh64Imm d imm) s = .next (s.wrote d (a.sshiftRight ((imm.signExtend 64).toNat % 64)) 1)) ∧
    (s.cfg.shiftPolicy = .refuse → 64 ≤ (imm.signExtend 64).toNat →
    Instr.wellFormed s.cfg (.lsh64Imm d imm) = false ∧
    Instr.wellFormed s.cfg (.rsh64Imm d imm) = false ∧
    Instr.wellFormed s.cfg (.arsh64Imm d imm) = false ∧
    (∀ t, exec (.lsh64Imm d imm) s ≠ .next t) ∧
    (∀ t, exec (.rsh64Imm d imm) s ≠ .next t) ∧
    (∀ t, exec (.arsh64Imm d imm) s ≠ .next t)) ∧
    (s.reg src = ⟨b, true⟩ →
    (s.cfg.shiftPolicy = .mask ∨ b.toNat < 64 →
    exec (.lsh64Reg d src) s = .next (s.wrote d (a <<< (b.toNat % 64)) 1) ∧
    exec (.rsh64Reg d src) s = .next (s.wrote d (a >>> (b.toNat % 64)) 1) ∧
    exec (.arsh64Reg d src) s = .next (s.wrote d (a.sshiftRight (b.toNat % 64)) 1)) ∧
    (s.cfg.shiftPolicy = .refuse → 64 ≤ b.toNat →
    (∀ t, exec (.lsh64Reg d src) s ≠ .next t) ∧
    (∀ t, exec (.rsh64Reg d src) s ≠ .next t) ∧
    (∀ t, exec (.arsh64Reg d src) s ≠ .next t)))

/-- Shifts, both values of SHIFT_POLICY (R163); an out-of-range amount of an immediate is one whose 32-bit pattern, read as unsigned, is 32 or more. That exec of a shift out of range, immediate or register, answers a refusal with `refuse` is the model's (log 12). -/
def Obligations.Shift32Amounts : Prop :=
  ∀ (s : State) (d : WReg) (src : Reg) (imm : Imm) (a b : Word), s.reg d.toReg = ⟨a, true⟩ →
    (s.cfg.shiftPolicy = .mask ∨ imm.toNat < 32 →
    exec (.lsh32Imm d imm) s = .next (s.wrote d (((a.setWidth 32) <<< (imm.toNat % 32)).setWidth 64) 1) ∧
    exec (.rsh32Imm d imm) s = .next (s.wrote d (((a.setWidth 32) >>> (imm.toNat % 32)).setWidth 64) 1) ∧
    exec (.arsh32Imm d imm) s = .next (s.wrote d (((a.setWidth 32).sshiftRight (imm.toNat % 32)).setWidth 64) 1)) ∧
    (s.cfg.shiftPolicy = .refuse → 32 ≤ imm.toNat →
    Instr.wellFormed s.cfg (.lsh32Imm d imm) = false ∧
    Instr.wellFormed s.cfg (.rsh32Imm d imm) = false ∧
    Instr.wellFormed s.cfg (.arsh32Imm d imm) = false ∧
    (∀ t, exec (.lsh32Imm d imm) s ≠ .next t) ∧
    (∀ t, exec (.rsh32Imm d imm) s ≠ .next t) ∧
    (∀ t, exec (.arsh32Imm d imm) s ≠ .next t)) ∧
    (s.reg src = ⟨b, true⟩ →
    (s.cfg.shiftPolicy = .mask ∨ (b.setWidth 32).toNat < 32 →
    exec (.lsh32Reg d src) s = .next (s.wrote d (((a.setWidth 32) <<< ((b.setWidth 32).toNat % 32)).setWidth 64) 1) ∧
    exec (.rsh32Reg d src) s = .next (s.wrote d (((a.setWidth 32) >>> ((b.setWidth 32).toNat % 32)).setWidth 64) 1) ∧
    exec (.arsh32Reg d src) s = .next (s.wrote d (((a.setWidth 32).sshiftRight ((b.setWidth 32).toNat % 32)).setWidth 64) 1)) ∧
    (s.cfg.shiftPolicy = .refuse → 32 ≤ (b.setWidth 32).toNat →
    (∀ t, exec (.lsh32Reg d src) s ≠ .next t) ∧
    (∀ t, exec (.rsh32Reg d src) s ≠ .next t) ∧
    (∀ t, exec (.arsh32Reg d src) s ≠ .next t)))

/-- Byte `k` of the result, byte 0 the least significant. -/
def Obligations.ByteSwapBytes : Prop :=
  ∀ (s : State) (d : WReg) (a : Word), s.reg d.toReg = ⟨a, true⟩ →
    (∃ r : Word, exec (.le16 d) s = .next (s.wrote d r 1) ∧ ∀ k : Nat,
      byteOf r k = if 2 ≤ k then 0 else if s.cfg.endian = .little then byteOf a k else byteOf a (1 - k)) ∧
    (∃ r : Word, exec (.le32 d) s = .next (s.wrote d r 1) ∧ ∀ k : Nat,
      byteOf r k = if 4 ≤ k then 0 else if s.cfg.endian = .little then byteOf a k else byteOf a (3 - k)) ∧
    (∃ r : Word, exec (.le64 d) s = .next (s.wrote d r 1) ∧ ∀ k : Nat,
      byteOf r k = if 8 ≤ k then 0 else if s.cfg.endian = .little then byteOf a k else byteOf a (7 - k)) ∧
    (∃ r : Word, exec (.be16 d) s = .next (s.wrote d r 1) ∧ ∀ k : Nat,
      byteOf r k = if 2 ≤ k then 0 else if s.cfg.endian = .big then byteOf a k else byteOf a (1 - k)) ∧
    (∃ r : Word, exec (.be32 d) s = .next (s.wrote d r 1) ∧ ∀ k : Nat,
      byteOf r k = if 4 ≤ k then 0 else if s.cfg.endian = .big then byteOf a k else byteOf a (3 - k)) ∧
    (∃ r : Word, exec (.be64 d) s = .next (s.wrote d r 1) ∧ ∀ k : Nat,
      byteOf r k = if 8 ≤ k then 0 else if s.cfg.endian = .big then byteOf a k else byteOf a (7 - k))

/-- 64-bit comparisons; the target counts slots from the slot after the jump. -/
def Obligations.Jump64Result : Prop :=
  ∀ (s : State) (r src : Reg) (imm : Imm) (off : Off) (a b : Word) (n : Nat), (n : Int) = s.pc + 1 + off.toInt →
    exec (.ja off) s = .next (s.at n) ∧
    (s.reg r = ⟨a, true⟩ →
    exec (.jeqImm r imm off) s = .next (s.at (if a = (imm.signExtend 64) then n else s.pc + 1)) ∧
    exec (.jgtImm r imm off) s = .next (s.at (if (imm.signExtend 64).toNat < a.toNat then n else s.pc + 1)) ∧
    exec (.jgeImm r imm off) s = .next (s.at (if (imm.signExtend 64).toNat ≤ a.toNat then n else s.pc + 1)) ∧
    exec (.jsetImm r imm off) s = .next (s.at (if a &&& (imm.signExtend 64) ≠ 0 then n else s.pc + 1)) ∧
    exec (.jneImm r imm off) s = .next (s.at (if a ≠ (imm.signExtend 64) then n else s.pc + 1)) ∧
    exec (.jsgtImm r imm off) s = .next (s.at (if (imm.signExtend 64).toInt < a.toInt then n else s.pc + 1)) ∧
    exec (.jsgeImm r imm off) s = .next (s.at (if (imm.signExtend 64).toInt ≤ a.toInt then n else s.pc + 1)) ∧
    exec (.jltImm r imm off) s = .next (s.at (if a.toNat < (imm.signExtend 64).toNat then n else s.pc + 1)) ∧
    exec (.jleImm r imm off) s = .next (s.at (if a.toNat ≤ (imm.signExtend 64).toNat then n else s.pc + 1)) ∧
    exec (.jsltImm r imm off) s = .next (s.at (if a.toInt < (imm.signExtend 64).toInt then n else s.pc + 1)) ∧
    exec (.jsleImm r imm off) s = .next (s.at (if a.toInt ≤ (imm.signExtend 64).toInt then n else s.pc + 1)) ∧
    (s.reg src = ⟨b, true⟩ →
    exec (.jeqReg r src off) s = .next (s.at (if a = b then n else s.pc + 1)) ∧
    exec (.jgtReg r src off) s = .next (s.at (if b.toNat < a.toNat then n else s.pc + 1)) ∧
    exec (.jgeReg r src off) s = .next (s.at (if b.toNat ≤ a.toNat then n else s.pc + 1)) ∧
    exec (.jsetReg r src off) s = .next (s.at (if a &&& b ≠ 0 then n else s.pc + 1)) ∧
    exec (.jneReg r src off) s = .next (s.at (if a ≠ b then n else s.pc + 1)) ∧
    exec (.jsgtReg r src off) s = .next (s.at (if b.toInt < a.toInt then n else s.pc + 1)) ∧
    exec (.jsgeReg r src off) s = .next (s.at (if b.toInt ≤ a.toInt then n else s.pc + 1)) ∧
    exec (.jltReg r src off) s = .next (s.at (if a.toNat < b.toNat then n else s.pc + 1)) ∧
    exec (.jleReg r src off) s = .next (s.at (if a.toNat ≤ b.toNat then n else s.pc + 1)) ∧
    exec (.jsltReg r src off) s = .next (s.at (if a.toInt < b.toInt then n else s.pc + 1)) ∧
    exec (.jsleReg r src off) s = .next (s.at (if a.toInt ≤ b.toInt then n else s.pc + 1))))

/-- 32-bit comparisons; the target counts slots from the slot after the jump. -/
def Obligations.Jump32Result : Prop :=
  ∀ (s : State) (r src : Reg) (imm : Imm) (off : Off) (a b : Word) (n : Nat), (n : Int) = s.pc + 1 + off.toInt →
    (s.reg r = ⟨a, true⟩ →
    exec (.jeq32Imm r imm off) s = .next (s.at (if (a.setWidth 32) = imm then n else s.pc + 1)) ∧
    exec (.jgt32Imm r imm off) s = .next (s.at (if imm.toNat < (a.setWidth 32).toNat then n else s.pc + 1)) ∧
    exec (.jge32Imm r imm off) s = .next (s.at (if imm.toNat ≤ (a.setWidth 32).toNat then n else s.pc + 1)) ∧
    exec (.jset32Imm r imm off) s = .next (s.at (if (a.setWidth 32) &&& imm ≠ 0 then n else s.pc + 1)) ∧
    exec (.jne32Imm r imm off) s = .next (s.at (if (a.setWidth 32) ≠ imm then n else s.pc + 1)) ∧
    exec (.jsgt32Imm r imm off) s = .next (s.at (if imm.toInt < (a.setWidth 32).toInt then n else s.pc + 1)) ∧
    exec (.jsge32Imm r imm off) s = .next (s.at (if imm.toInt ≤ (a.setWidth 32).toInt then n else s.pc + 1)) ∧
    exec (.jlt32Imm r imm off) s = .next (s.at (if (a.setWidth 32).toNat < imm.toNat then n else s.pc + 1)) ∧
    exec (.jle32Imm r imm off) s = .next (s.at (if (a.setWidth 32).toNat ≤ imm.toNat then n else s.pc + 1)) ∧
    exec (.jslt32Imm r imm off) s = .next (s.at (if (a.setWidth 32).toInt < imm.toInt then n else s.pc + 1)) ∧
    exec (.jsle32Imm r imm off) s = .next (s.at (if (a.setWidth 32).toInt ≤ imm.toInt then n else s.pc + 1)) ∧
    (s.reg src = ⟨b, true⟩ →
    exec (.jeq32Reg r src off) s = .next (s.at (if (a.setWidth 32) = (b.setWidth 32) then n else s.pc + 1)) ∧
    exec (.jgt32Reg r src off) s = .next (s.at (if (b.setWidth 32).toNat < (a.setWidth 32).toNat then n else s.pc + 1)) ∧
    exec (.jge32Reg r src off) s = .next (s.at (if (b.setWidth 32).toNat ≤ (a.setWidth 32).toNat then n else s.pc + 1)) ∧
    exec (.jset32Reg r src off) s = .next (s.at (if (a.setWidth 32) &&& (b.setWidth 32) ≠ 0 then n else s.pc + 1)) ∧
    exec (.jne32Reg r src off) s = .next (s.at (if (a.setWidth 32) ≠ (b.setWidth 32) then n else s.pc + 1)) ∧
    exec (.jsgt32Reg r src off) s = .next (s.at (if (b.setWidth 32).toInt < (a.setWidth 32).toInt then n else s.pc + 1)) ∧
    exec (.jsge32Reg r src off) s = .next (s.at (if (b.setWidth 32).toInt ≤ (a.setWidth 32).toInt then n else s.pc + 1)) ∧
    exec (.jlt32Reg r src off) s = .next (s.at (if (a.setWidth 32).toNat < (b.setWidth 32).toNat then n else s.pc + 1)) ∧
    exec (.jle32Reg r src off) s = .next (s.at (if (a.setWidth 32).toNat ≤ (b.setWidth 32).toNat then n else s.pc + 1)) ∧
    exec (.jslt32Reg r src off) s = .next (s.at (if (a.setWidth 32).toInt < (b.setWidth 32).toInt then n else s.pc + 1)) ∧
    exec (.jsle32Reg r src off) s = .next (s.at (if (a.setWidth 32).toInt ≤ (b.setWidth 32).toInt then n else s.pc + 1))))

/-- The model's choice for an unchecked program (log 11): spec/30_encoding.md R109 (3) refuses such a program at load. -/
def Obligations.JumpBeforeSlotZero : Prop :=
  ∀ (s : State) (r src : Reg) (imm : Imm) (off : Off) (a b : Word),
    ((s.pc : Int) + 1 + off.toInt < 0 →
    exec (.ja off) s = .refused (.badTarget s.pc) ∧
    (s.reg r = ⟨a, true⟩ →
    exec (.jeqImm r imm off) s = (if a = (imm.signExtend 64) then .refused (.badTarget s.pc) else .next (s.at (s.pc + 1))) ∧
    exec (.jgtImm r imm off) s = (if (imm.signExtend 64).toNat < a.toNat then .refused (.badTarget s.pc) else .next (s.at (s.pc + 1))) ∧
    exec (.jgeImm r imm off) s = (if (imm.signExtend 64).toNat ≤ a.toNat then .refused (.badTarget s.pc) else .next (s.at (s.pc + 1))) ∧
    exec (.jsetImm r imm off) s = (if a &&& (imm.signExtend 64) ≠ 0 then .refused (.badTarget s.pc) else .next (s.at (s.pc + 1))) ∧
    exec (.jneImm r imm off) s = (if a ≠ (imm.signExtend 64) then .refused (.badTarget s.pc) else .next (s.at (s.pc + 1))) ∧
    exec (.jsgtImm r imm off) s = (if (imm.signExtend 64).toInt < a.toInt then .refused (.badTarget s.pc) else .next (s.at (s.pc + 1))) ∧
    exec (.jsgeImm r imm off) s = (if (imm.signExtend 64).toInt ≤ a.toInt then .refused (.badTarget s.pc) else .next (s.at (s.pc + 1))) ∧
    exec (.jltImm r imm off) s = (if a.toNat < (imm.signExtend 64).toNat then .refused (.badTarget s.pc) else .next (s.at (s.pc + 1))) ∧
    exec (.jleImm r imm off) s = (if a.toNat ≤ (imm.signExtend 64).toNat then .refused (.badTarget s.pc) else .next (s.at (s.pc + 1))) ∧
    exec (.jsltImm r imm off) s = (if a.toInt < (imm.signExtend 64).toInt then .refused (.badTarget s.pc) else .next (s.at (s.pc + 1))) ∧
    exec (.jsleImm r imm off) s = (if a.toInt ≤ (imm.signExtend 64).toInt then .refused (.badTarget s.pc) else .next (s.at (s.pc + 1))) ∧
    exec (.jeq32Imm r imm off) s = (if (a.setWidth 32) = imm then .refused (.badTarget s.pc) else .next (s.at (s.pc + 1))) ∧
    exec (.jgt32Imm r imm off) s = (if imm.toNat < (a.setWidth 32).toNat then .refused (.badTarget s.pc) else .next (s.at (s.pc + 1))) ∧
    exec (.jge32Imm r imm off) s = (if imm.toNat ≤ (a.setWidth 32).toNat then .refused (.badTarget s.pc) else .next (s.at (s.pc + 1))) ∧
    exec (.jset32Imm r imm off) s = (if (a.setWidth 32) &&& imm ≠ 0 then .refused (.badTarget s.pc) else .next (s.at (s.pc + 1))) ∧
    exec (.jne32Imm r imm off) s = (if (a.setWidth 32) ≠ imm then .refused (.badTarget s.pc) else .next (s.at (s.pc + 1))) ∧
    exec (.jsgt32Imm r imm off) s = (if imm.toInt < (a.setWidth 32).toInt then .refused (.badTarget s.pc) else .next (s.at (s.pc + 1))) ∧
    exec (.jsge32Imm r imm off) s = (if imm.toInt ≤ (a.setWidth 32).toInt then .refused (.badTarget s.pc) else .next (s.at (s.pc + 1))) ∧
    exec (.jlt32Imm r imm off) s = (if (a.setWidth 32).toNat < imm.toNat then .refused (.badTarget s.pc) else .next (s.at (s.pc + 1))) ∧
    exec (.jle32Imm r imm off) s = (if (a.setWidth 32).toNat ≤ imm.toNat then .refused (.badTarget s.pc) else .next (s.at (s.pc + 1))) ∧
    exec (.jslt32Imm r imm off) s = (if (a.setWidth 32).toInt < imm.toInt then .refused (.badTarget s.pc) else .next (s.at (s.pc + 1))) ∧
    exec (.jsle32Imm r imm off) s = (if (a.setWidth 32).toInt ≤ imm.toInt then .refused (.badTarget s.pc) else .next (s.at (s.pc + 1))) ∧
    (s.reg src = ⟨b, true⟩ →
    exec (.jeqReg r src off) s = (if a = b then .refused (.badTarget s.pc) else .next (s.at (s.pc + 1))) ∧
    exec (.jgtReg r src off) s = (if b.toNat < a.toNat then .refused (.badTarget s.pc) else .next (s.at (s.pc + 1))) ∧
    exec (.jgeReg r src off) s = (if b.toNat ≤ a.toNat then .refused (.badTarget s.pc) else .next (s.at (s.pc + 1))) ∧
    exec (.jsetReg r src off) s = (if a &&& b ≠ 0 then .refused (.badTarget s.pc) else .next (s.at (s.pc + 1))) ∧
    exec (.jneReg r src off) s = (if a ≠ b then .refused (.badTarget s.pc) else .next (s.at (s.pc + 1))) ∧
    exec (.jsgtReg r src off) s = (if b.toInt < a.toInt then .refused (.badTarget s.pc) else .next (s.at (s.pc + 1))) ∧
    exec (.jsgeReg r src off) s = (if b.toInt ≤ a.toInt then .refused (.badTarget s.pc) else .next (s.at (s.pc + 1))) ∧
    exec (.jltReg r src off) s = (if a.toNat < b.toNat then .refused (.badTarget s.pc) else .next (s.at (s.pc + 1))) ∧
    exec (.jleReg r src off) s = (if a.toNat ≤ b.toNat then .refused (.badTarget s.pc) else .next (s.at (s.pc + 1))) ∧
    exec (.jsltReg r src off) s = (if a.toInt < b.toInt then .refused (.badTarget s.pc) else .next (s.at (s.pc + 1))) ∧
    exec (.jsleReg r src off) s = (if a.toInt ≤ b.toInt then .refused (.badTarget s.pc) else .next (s.at (s.pc + 1))) ∧
    exec (.jeq32Reg r src off) s = (if (a.setWidth 32) = (b.setWidth 32) then .refused (.badTarget s.pc) else .next (s.at (s.pc + 1))) ∧
    exec (.jgt32Reg r src off) s = (if (b.setWidth 32).toNat < (a.setWidth 32).toNat then .refused (.badTarget s.pc) else .next (s.at (s.pc + 1))) ∧
    exec (.jge32Reg r src off) s = (if (b.setWidth 32).toNat ≤ (a.setWidth 32).toNat then .refused (.badTarget s.pc) else .next (s.at (s.pc + 1))) ∧
    exec (.jset32Reg r src off) s = (if (a.setWidth 32) &&& (b.setWidth 32) ≠ 0 then .refused (.badTarget s.pc) else .next (s.at (s.pc + 1))) ∧
    exec (.jne32Reg r src off) s = (if (a.setWidth 32) ≠ (b.setWidth 32) then .refused (.badTarget s.pc) else .next (s.at (s.pc + 1))) ∧
    exec (.jsgt32Reg r src off) s = (if (b.setWidth 32).toInt < (a.setWidth 32).toInt then .refused (.badTarget s.pc) else .next (s.at (s.pc + 1))) ∧
    exec (.jsge32Reg r src off) s = (if (b.setWidth 32).toInt ≤ (a.setWidth 32).toInt then .refused (.badTarget s.pc) else .next (s.at (s.pc + 1))) ∧
    exec (.jlt32Reg r src off) s = (if (a.setWidth 32).toNat < (b.setWidth 32).toNat then .refused (.badTarget s.pc) else .next (s.at (s.pc + 1))) ∧
    exec (.jle32Reg r src off) s = (if (a.setWidth 32).toNat ≤ (b.setWidth 32).toNat then .refused (.badTarget s.pc) else .next (s.at (s.pc + 1))) ∧
    exec (.jslt32Reg r src off) s = (if (a.setWidth 32).toInt < (b.setWidth 32).toInt then .refused (.badTarget s.pc) else .next (s.at (s.pc + 1))) ∧
    exec (.jsle32Reg r src off) s = (if (a.setWidth 32).toInt ≤ (b.setWidth 32).toInt then .refused (.badTarget s.pc) else .next (s.at (s.pc + 1))))) ∧
    (s.frames.length ≠ Config.maxCallDepth s.cfg → s.cfg.localCallField = .offset →
      exec (.callLocal off imm) s = .refused (.badTarget s.pc))) ∧
    ∀ (d : WReg) (disp : Imm), (s.pc : Int) + 1 + disp.toInt < 0 →
      exec (.ldCodeAddr d disp) s = .refused (.badTarget s.pc) ∧
      (s.frames.length ≠ Config.maxCallDepth s.cfg → s.cfg.localCallField = .imm →
        exec (.callLocal 0 disp) s = .refused (.badTarget s.pc))

/-- Loads. The draw counter and the drawn value are the model's (log 7), and so is the form of other agents' writes between the bytes of a misaligned access (log 8). -/
def Obligations.LoadResult : Prop :=
  ∀ (s : State) (d : WReg) (src : Reg) (off : Off) (base : Word) (lr : LiveRegion), s.reg src = ⟨base, true⟩ →
    ∀ p ∈ [(Instr.ldxb d src off, 1), (.ldxh d src off, 2), (.ldxw d src off, 4), (.ldxdw d src off, 8)],
      (s.cfg.alignPolicy = .fault → (base + off.signExtend 64).toNat % p.2 = 0) →
      s.region? .read (base + off.signExtend 64) p.2 = some lr →
      (lr.region.shared = false →
        exec p.1 s = .next (s.wrote d (ofBytes s.cfg.endian (s.bytesIn lr (base + off.signExtend 64).toNat p.2)) 1)) ∧
      (lr.region.shared = true → s.cfg.sharedModel = .havoc →
        exec p.1 s = .next { s.wrote d (truncBytes p.2 (Config.havocValue s.draws)) 1 with draws := s.draws + 1 }) ∧
      (lr.region.shared = true → s.cfg.sharedModel = .sc → (base + off.signExtend 64).toNat % p.2 = 0 →
        exec p.1 s = .next (s.wrote d (ofBytes s.cfg.endian (s.bytesIn lr (base + off.signExtend 64).toNat p.2)) 1)) ∧
      (lr.region.shared = true → s.cfg.sharedModel = .sc → (base + off.signExtend 64).toNat % p.2 ≠ 0 →
        exec p.1 s = .next { s.wrote d
          (ofBytes s.cfg.endian (s.seenBytes lr (base + off.signExtend 64).toNat p.2)) 1 with draws := s.draws + 1 } ∧
        (s.seenBytes lr (base + off.signExtend 64).toNat p.2).length = p.2 ∧
        (∀ i, i < p.2 → ∃ k, (s.seenBytes lr (base + off.signExtend 64).toNat p.2)[i]? =
          some ((s.midway k).byteIn lr ((base + off.signExtend 64).toNat + i))) ∧
        (s.env = .silent → s.seenBytes lr (base + off.signExtend 64).toNat p.2 =
          s.bytesIn lr (base + off.signExtend 64).toNat p.2)) ∧
      ∃ t, exec p.1 s = .next t ∧ t.pc = s.pc + 1 ∧ t.mem = s.mem

/-- Stores, with the frame of memory said through the read of one byte. -/
def Obligations.StoreResult : Prop :=
  ∀ (s : State) (dst src : Reg) (off : Off) (imm : Imm) (base v : Word) (lr : LiveRegion), s.reg dst = ⟨base, true⟩ →
    (∀ p ∈ [(Instr.stb dst off imm, 1), (.sth dst off imm, 2), (.stw dst off imm, 4), (.stdw dst off imm, 8)],
      (s.cfg.alignPolicy = .fault → (base + off.signExtend 64).toNat % p.2 = 0) →
      s.region? .write (base + off.signExtend 64) p.2 = some lr →
      exec p.1 s = .next (s.stored (base + off.signExtend 64) p.2 (imm.signExtend 64))) ∧
    (s.reg src = ⟨v, true⟩ →
      ∀ p ∈ [(Instr.stxb dst off src, 1), (.stxh dst off src, 2), (.stxw dst off src, 4), (.stxdw dst off src, 8)],
      (s.cfg.alignPolicy = .fault → (base + off.signExtend 64).toNat % p.2 = 0) →
      s.region? .write (base + off.signExtend 64) p.2 = some lr →
      exec p.1 s = .next (s.stored (base + off.signExtend 64) p.2 v)) ∧
    (∀ (a u : Word) (n : Nat),
      (∀ i, i < n → (s.stored a n u).mem.get? (a.toNat + i) =
        some (byteOf u (if s.cfg.endian = .little then i else n - 1 - i))) ∧
      ∀ x, x < a.toNat ∨ a.toNat + n ≤ x → (s.stored a n u).byteAt x = s.byteAt x)

/-- Where a regular access traps; the order is that of R414. -/
def Obligations.RegularAccessTraps : Prop :=
  ∀ (s : State) (i : Instr) (b : Reg) (off : Off) (n : Nat) (need : Access) (base : Word),
    Instr.regularAccess i = some (b, off, n, need) → s.firstUndefined (Instr.reads s i) = none → s.reg b = ⟨base, true⟩ →
    (s.cfg.alignPolicy = .fault → (base + off.signExtend 64).toNat % n ≠ 0 →
      exec i s = .next (s.faultedWith (.misaligned (base + off.signExtend 64))) ∧ n ≠ 1) ∧
    (¬ (s.cfg.alignPolicy = .fault ∧ (base + off.signExtend 64).toNat % n ≠ 0) →
      s.region? need (base + off.signExtend 64) n = none →
      exec i s = .next (s.faultedWith (.memAccess (base + off.signExtend 64))))

/-- Step (2) of the access primitives, over the list of regions. That a listed region which holds the value area of a map is read as shared where its entry lacks the flag is the model's reading (log 16). -/
def Obligations.RegionFound : Prop :=
  ∀ (s : State) (need : Access) (a : Word) (n : Nat),
    (s.region? need a n = none ↔ ¬ ∃ lr ∈ s.live, Region.allows lr.region need = true ∧ lr.region.base ≤ a.toNat ∧
      a.toNat + n ≤ lr.region.base + lr.region.len ∧ a.toNat + n ≤ 2 ^ 64) ∧
    (∀ lr, s.region? need a n = some lr → lr ∈ s.live ∧ Region.allows lr.region need = true ∧
      lr.region.base ≤ a.toNat ∧ a.toNat + n ≤ lr.region.base + lr.region.len) ∧
    ∀ r, (∃ lr ∈ s.live, lr.region = r) ↔
      (∃ q ∈ s.cfg.regions, r = { q with shared := q.shared || Config.isValueArea s.cfg q }) ∨
      ∃ d, d ≤ s.frames.length ∧ r = ⟨Config.frameBase s.cfg d, s.cfg.stackSize, true, true, false⟩

/-- Read after write, for a region whose reads are its bytes. -/
def Obligations.StoreThenReadBytes : Prop :=
  ∀ (s : State) (lr : LiveRegion) (a v : Word) (n : Nat), n ∈ [1, 2, 4, 8] → a.toNat + n ≤ 2 ^ 64 →
    ((s.store a n v).valueAt lr a n).toNat = v.toNat % 2 ^ (8 * n)

/-- Rule R52 for every value; its example is the value 0x11223344. -/
def Obligations.MixedWidthBytes : Prop :=
  ∀ (s : State) (lr : LiveRegion) (a v : Word), a.toNat + 4 ≤ 2 ^ 64 →
    (∀ n m j, j + m ≤ n → (s.store a n v).bytesIn lr (a.toNat + j) m = ((toBytes s.cfg.endian n v).drop j).take m) ∧
    (s.cfg.endian = .little →
      (s.store a 4 v).valueAt lr a 1 = (v.extractLsb' 0 8).setWidth 64 ∧
      (s.store a 4 v).valueAt lr (a + 3) 1 = (v.extractLsb' 24 8).setWidth 64 ∧
      (s.store a 4 v).valueAt lr a 2 = (v.extractLsb' 0 16).setWidth 64 ∧
      (s.store a 4 v).valueAt lr (a + 2) 2 = (v.extractLsb' 16 16).setWidth 64) ∧
    (s.cfg.endian = .big →
      (s.store a 4 v).valueAt lr a 1 = (v.extractLsb' 24 8).setWidth 64 ∧
      (s.store a 4 v).valueAt lr (a + 3) 1 = (v.extractLsb' 0 8).setWidth 64 ∧
      (s.store a 4 v).valueAt lr a 2 = (v.extractLsb' 16 16).setWidth 64 ∧
      (s.store a 4 v).valueAt lr (a + 2) 2 = (v.extractLsb' 0 16).setWidth 64)

/-- Unwritten bytes; the value itself is an opaque constant (log 6), and the statement holds for every value of it. -/
def Obligations.UnwrittenByteDrawn : Prop :=
  ∀ (s : State) (lr : LiveRegion) (x : Nat) (a : Word) (n : Nat) (v : Word), s.mem.get? x = none →
    s.byteIn lr x = Config.freeByte lr.birth x ∧
    (x < a.toNat ∨ a.toNat + n ≤ x → (s.store a n v).byteIn lr x = Config.freeByte lr.birth x) ∧
    (a.toNat ≤ x → x < a.toNat + n → (s.store a n v).byteIn lr x =
      byteOf v (if s.cfg.endian = .little then x - a.toNat else n - 1 - (x - a.toNat)))

/-- `(old, s')` is the read of the location: its bytes for a private region or with sc, a draw for a shared one with havoc (the drawn value and the draw counter are the model's, log 7). -/
def Obligations.Atomic32Result : Prop :=
  ∀ (s s' : State) (dst src : Reg) (d : WReg) (off : Off) (base val exp old : Word) (lr : LiveRegion),
    s.reg dst = ⟨base, true⟩ → (base + off.signExtend 64).toNat % 4 = 0 →
    s.region? .rmw (base + off.signExtend 64) 4 = some lr → s.load lr (base + off.signExtend 64) 4 = (old, s') →
    (s.reg src = ⟨val, true⟩ →
    exec (.atomicAdd32 dst off src) s = .next (s'.stored (base + off.signExtend 64) 4 (((old.setWidth 32) + (val.setWidth 32)).setWidth 64)) ∧
    exec (.atomicOr32 dst off src) s = .next (s'.stored (base + off.signExtend 64) 4 (((old.setWidth 32) ||| (val.setWidth 32)).setWidth 64)) ∧
    exec (.atomicAnd32 dst off src) s = .next (s'.stored (base + off.signExtend 64) 4 (((old.setWidth 32) &&& (val.setWidth 32)).setWidth 64)) ∧
    exec (.atomicXor32 dst off src) s = .next (s'.stored (base + off.signExtend 64) 4 (((old.setWidth 32) ^^^ (val.setWidth 32)).setWidth 64)) ∧
    (s.reg 0 = ⟨exp, true⟩ → exec (.atomicCmpxchg32 dst off src) s =
      .next ((s'.store (base + off.signExtend 64) 4 (if old = (exp.setWidth 32).setWidth 64 then ((val.setWidth 32).setWidth 64) else old)).wrote 0 old 1))) ∧
    (s.reg d.toReg = ⟨val, true⟩ →
    exec (.atomicFetchAdd32 dst off d) s = .next ((s'.store (base + off.signExtend 64) 4 (((old.setWidth 32) + (val.setWidth 32)).setWidth 64)).wrote d old 1) ∧
    exec (.atomicFetchOr32 dst off d) s = .next ((s'.store (base + off.signExtend 64) 4 (((old.setWidth 32) ||| (val.setWidth 32)).setWidth 64)).wrote d old 1) ∧
    exec (.atomicFetchAnd32 dst off d) s = .next ((s'.store (base + off.signExtend 64) 4 (((old.setWidth 32) &&& (val.setWidth 32)).setWidth 64)).wrote d old 1) ∧
    exec (.atomicFetchXor32 dst off d) s = .next ((s'.store (base + off.signExtend 64) 4 (((old.setWidth 32) ^^^ (val.setWidth 32)).setWidth 64)).wrote d old 1) ∧
    exec (.atomicXchg32 dst off d) s = .next ((s'.store (base + off.signExtend 64) 4 val).wrote d old 1)) ∧
    (lr.region.shared = false ∨ s.cfg.sharedModel = .sc → old = ofBytes s.cfg.endian (s.bytesIn lr (base + off.signExtend 64).toNat 4) ∧ s' = s) ∧
    (lr.region.shared = true → s.cfg.sharedModel = .havoc →
      old = truncBytes 4 (Config.havocValue s.draws) ∧ s' = { s with draws := s.draws + 1 }) ∧
    ∀ v x, x < (base + off.signExtend 64).toNat ∨ (base + off.signExtend 64).toNat + 4 ≤ x → (s'.store (base + off.signExtend 64) 4 v).byteAt x = s.byteAt x

/-- `(old, s')` is the read of the location: its bytes for a private region or with sc, a draw for a shared one with havoc (the drawn value and the draw counter are the model's, log 7). -/
def Obligations.Atomic64Result : Prop :=
  ∀ (s s' : State) (dst src : Reg) (d : WReg) (off : Off) (base val exp old : Word) (lr : LiveRegion),
    s.reg dst = ⟨base, true⟩ → (base + off.signExtend 64).toNat % 8 = 0 →
    s.region? .rmw (base + off.signExtend 64) 8 = some lr → s.load lr (base + off.signExtend 64) 8 = (old, s') →
    (s.reg src = ⟨val, true⟩ →
    exec (.atomicAdd64 dst off src) s = .next (s'.stored (base + off.signExtend 64) 8 (old + val)) ∧
    exec (.atomicOr64 dst off src) s = .next (s'.stored (base + off.signExtend 64) 8 (old ||| val)) ∧
    exec (.atomicAnd64 dst off src) s = .next (s'.stored (base + off.signExtend 64) 8 (old &&& val)) ∧
    exec (.atomicXor64 dst off src) s = .next (s'.stored (base + off.signExtend 64) 8 (old ^^^ val)) ∧
    (s.reg 0 = ⟨exp, true⟩ → exec (.atomicCmpxchg64 dst off src) s =
      .next ((s'.store (base + off.signExtend 64) 8 (if old = exp then val else old)).wrote 0 old 1))) ∧
    (s.reg d.toReg = ⟨val, true⟩ →
    exec (.atomicFetchAdd64 dst off d) s = .next ((s'.store (base + off.signExtend 64) 8 (old + val)).wrote d old 1) ∧
    exec (.atomicFetchOr64 dst off d) s = .next ((s'.store (base + off.signExtend 64) 8 (old ||| val)).wrote d old 1) ∧
    exec (.atomicFetchAnd64 dst off d) s = .next ((s'.store (base + off.signExtend 64) 8 (old &&& val)).wrote d old 1) ∧
    exec (.atomicFetchXor64 dst off d) s = .next ((s'.store (base + off.signExtend 64) 8 (old ^^^ val)).wrote d old 1) ∧
    exec (.atomicXchg64 dst off d) s = .next ((s'.store (base + off.signExtend 64) 8 val).wrote d old 1)) ∧
    (lr.region.shared = false ∨ s.cfg.sharedModel = .sc → old = ofBytes s.cfg.endian (s.bytesIn lr (base + off.signExtend 64).toNat 8) ∧ s' = s) ∧
    (lr.region.shared = true → s.cfg.sharedModel = .havoc →
      old = truncBytes 8 (Config.havocValue s.draws) ∧ s' = { s with draws := s.draws + 1 }) ∧
    ∀ v x, x < (base + off.signExtend 64).toNat ∨ (base + off.signExtend 64).toNat + 8 ≤ x → (s'.store (base + off.signExtend 64) 8 v).byteAt x = s.byteAt x

/-- Rule R326, for all twenty atomic operations. -/
def Obligations.AtomicTraps : Prop :=
  ∀ (s : State) (i : Instr) (b : Reg) (off : Off) (n : Nat), Instr.isAtomic i = true →
    Instr.storesTo i = some (b, off, n) →
    (∀ r, s.firstUndefined (Instr.reads s i) = some r → exec i s = .next (s.faultedWith (.uninitRegister r))) ∧
    (s.firstUndefined (Instr.reads s i) = none → ∀ base, s.reg b = ⟨base, true⟩ →
      ((base + off.signExtend 64).toNat % n ≠ 0 →
        exec i s = .next (s.faultedWith (.misaligned (base + off.signExtend 64)))) ∧
      ((base + off.signExtend 64).toNat % n = 0 → s.region? .rmw (base + off.signExtend 64) n = none →
        exec i s = .next (s.faultedWith (.memAccess (base + off.signExtend 64)))))

/-- Rule R88. -/
def Obligations.LddwConstant : Prop :=
  ∀ (s : State) (d : WReg) (imm nextImm : Imm), exec (.lddw d imm nextImm) s =
    .next (s.wrote d (BitVec.ofNat 64 (nextImm.toNat * 2 ^ 32 + imm.toNat)) 2)

/-- The platform parameters are the configuration's; code_addr is what the platform states of it, and free where it states nothing (log 10). -/
def Obligations.PlatformAddressLoads : Prop :=
  ∀ (s : State) (d : WReg) (imm nextImm : Imm) (m v : Word) (t : Nat),
    (s.cfg.mapsSupported = true → s.cfg.mapByFd.lookup imm = some m →
      exec (.ldMapFd d imm) s = .next (s.wrote d m 2) ∧
      (s.cfg.mva.lookup m = some v → exec (.ldMapFdValue d imm nextImm) s = .next (s.wrote d (v + nextImm.setWidth 64) 2))) ∧
    (s.cfg.mapsSupported = true → s.cfg.mapByIdx.lookup imm = some m →
      exec (.ldMapIdx d imm) s = .next (s.wrote d m 2) ∧
      (s.cfg.mva.lookup m = some v → exec (.ldMapIdxValue d imm nextImm) s = .next (s.wrote d (v + nextImm.setWidth 64) 2))) ∧
    (s.cfg.varsSupported = true → s.cfg.variableAddr.lookup imm = some m →
      exec (.ldVarAddr d imm) s = .next (s.wrote d m 2)) ∧
    ((t : Int) = s.pc + 1 + imm.toInt → exec (.ldCodeAddr d imm) s = .next (s.wrote d (codeAddrOf s.cfg s.prog.length t) 2))

/-- Refusal of an unchecked program at the instruction itself is the model's choice (log 11). -/
def Obligations.UnsupportedOperandsRefused : Prop :=
  ∀ (s : State) (i : Instr),
    (i.operandSupported s.cfg = false → i.wellFormed s.cfg = false ∧ exec i s = .refused (.unsupported s.pc)) ∧
    (i.helperKnown s.cfg = false → i.wellFormed s.cfg = false ∧ exec i s = .refused (.unknownHelper s.pc))

/-- The entry of a BPF-local function. The number of the new frame in its record (log 6), the draw counter (log 7) and that the unwritten bytes of the frame are unlisted (log 18) are the model's. -/
def Obligations.LocalCallEnters : Prop :=
  ∀ (s : State) (off : Off) (imm : Imm) (n : Nat), s.frames.length ≠ Config.maxCallDepth s.cfg →
    (n : Int) = s.pc + 1 + (if s.cfg.localCallField = .offset then off.toInt else imm.toInt) →
    ∃ t, exec (.callLocal off imm) s = .next t ∧ t.pc = n ∧
      t.frames = ⟨s.pc + 1, s.reg 6, s.reg 7, s.reg 8, s.reg 9, s.reg 10, s.draws⟩ :: s.frames ∧
      (∀ r ∈ ([1, 2, 3, 4, 5] : List Reg), t.reg r = s.reg r) ∧
      (∀ r ∈ ([0, 6, 7, 8, 9] : List Reg), (t.reg r).defd = false) ∧
      t.reg 10 = ⟨BitVec.ofNat 64 (Config.frameBase s.cfg (s.frames.length + 1) + s.cfg.stackSize), true⟩ ∧
      (∀ x, t.mem.get? x = if Config.frameBase s.cfg (s.frames.length + 1) ≤ x ∧
        x < Config.frameBase s.cfg (s.frames.length + 1) + s.cfg.stackSize then none else s.mem.get? x) ∧
      t.prog = s.prog ∧ t.status = s.status ∧ t.cfg = s.cfg ∧ t.env = s.env ∧ t.draws = s.draws + 1

/-- Rule R283. -/
def Obligations.CallDepthLimit : Prop :=
  ∀ (s : State) (off : Off) (imm : Imm),
    (s.frames.length = Config.maxCallDepth s.cfg →
      exec (.callLocal off imm) s = .next (s.faultedWith (.callDepth s.pc))) ∧
    (s.frames.length < Config.maxCallDepth s.cfg →
      0 ≤ (s.pc : Int) + 1 + (if s.cfg.localCallField = .offset then off.toInt else imm.toInt) →
      ∃ t, exec (.callLocal off imm) s = .next t ∧ t.frames.length = s.frames.length + 1 ∧ t.status = s.status)

/-- Both meanings of exit. That the bytes of the frame that is gone are unlisted is the model's form (log 18). -/
def Obligations.ExitTwoMeanings : Prop :=
  ∀ (s : State),
    (s.frames = [] → ∀ v, s.reg 0 = ⟨v, true⟩ → exec .exit s = .next { s with status := .exited v }) ∧
    (s.frames = [] → (s.reg 0).defd = false → exec .exit s = .next (s.faultedWith (.uninitRegister 0))) ∧
    (∀ r rest, s.frames = r :: rest → ∃ t, exec .exit s = .next t ∧ t.pc = r.retPc ∧ t.frames = rest ∧
      t.reg 6 = r.saved6 ∧ t.reg 7 = r.saved7 ∧ t.reg 8 = r.saved8 ∧ t.reg 9 = r.saved9 ∧ t.reg 10 = r.saved10 ∧
      (∀ q ∈ ([1, 2, 3, 4, 5] : List Reg), (t.reg q).defd = false) ∧ t.reg 0 = s.reg 0 ∧
      (∀ x, t.mem.get? x = if Config.frameBase s.cfg (rest.length + 1) ≤ x ∧
        x < Config.frameBase s.cfg (rest.length + 1) + s.cfg.stackSize then none else s.mem.get? x) ∧
      t.prog = s.prog ∧ t.status = s.status ∧ t.cfg = s.cfg ∧ t.env = s.env ∧ t.draws = s.draws)

/-- Both numbering spaces, for every outcome: one the platform states, or the model's free value (log 9). Bytes of an outcome outside the writable regions are dropped (log 23). -/
def Obligations.HelperCallEffects : Prop :=
  ∀ (s : State) (id : Imm) (h : Helper),
    (s.cfg.helpersAgnostic.lookup id = some h →
      (∀ r, s.firstUndefined (argRegs h.arity) = some r → exec (.callHelper id) s = .next (s.faultedWith (.uninitRegister r))) ∧
      (s.firstUndefined (argRegs h.arity) = none →
        match s.outcome .agnostic id h ((argRegs h.arity).map fun r => (s.reg r).val) with
        | .fault info => exec (.callHelper id) s = .next (s.faultedWith (.helperFault info))
        | .ret v w => ∃ t, exec (.callHelper id) s = .next t ∧ t.pc = s.pc + 1 ∧
            (∀ x, v = some x → t.reg 0 = ⟨x, true⟩) ∧ (v = none → (t.reg 0).defd = false) ∧
            (∀ r ∈ ([1, 2, 3, 4, 5] : List Reg), (t.reg r).defd = false) ∧
            (∀ r ∈ ([6, 7, 8, 9, 10] : List Reg), t.reg r = s.reg r) ∧
            (∀ x, s.writableByte x = false → t.mem.get? x = s.mem.get? x) ∧
            t.mem = s.mem.putCells (w.filter fun c => s.writableByte c.1) ∧
            t.frames = s.frames ∧ t.prog = s.prog ∧ t.status = s.status ∧ t.cfg = s.cfg ∧ t.env = s.env)) ∧
    (s.cfg.helpersPlatform.lookup id = some h →
      (∀ r, s.firstUndefined (argRegs h.arity) = some r → exec (.callPlatform id) s = .next (s.faultedWith (.uninitRegister r))) ∧
      (s.firstUndefined (argRegs h.arity) = none →
        match s.outcome .platform id h ((argRegs h.arity).map fun r => (s.reg r).val) with
        | .fault info => exec (.callPlatform id) s = .next (s.faultedWith (.helperFault info))
        | .ret v w => ∃ t, exec (.callPlatform id) s = .next t ∧ t.pc = s.pc + 1 ∧
            (∀ x, v = some x → t.reg 0 = ⟨x, true⟩) ∧ (v = none → (t.reg 0).defd = false) ∧
            (∀ r ∈ ([1, 2, 3, 4, 5] : List Reg), (t.reg r).defd = false) ∧
            (∀ r ∈ ([6, 7, 8, 9, 10] : List Reg), t.reg r = s.reg r) ∧
            (∀ x, s.writableByte x = false → t.mem.get? x = s.mem.get? x) ∧
            t.mem = s.mem.putCells (w.filter fun c => s.writableByte c.1) ∧
            t.frames = s.frames ∧ t.prog = s.prog ∧ t.status = s.status ∧ t.cfg = s.cfg ∧ t.env = s.env))

/-- Completion on hypotheses about the state alone, with a value and with none. The cases a platform states (log 9), the draw counter (log 7), the bits of a register made undefined (log 14) and that bytes outside writable regions are dropped (log 23) are the model's. -/
def Obligations.HelperCallCompletes : Prop :=
  ∀ (s : State) (id : Imm) (h : Helper) (c : HelperCase) (v : Option Word) (w : List Host.Cell),
    s.firstUndefined (argRegs h.arity) = none →
    s.helperCase? h ((argRegs h.arity).map fun r => (s.reg r).val) = some c → c.outcome = .ret v w → c.others = [] →
    (s.cfg.helpersAgnostic.lookup id = some h →
      exec (.callHelper id) s = .next { s with
        regs := (((((s.regs.set 1 ⟨(s.reg 1).val, false⟩).set 2 ⟨(s.reg 2).val, false⟩).set 3 ⟨(s.reg 3).val, false⟩).set 4
          ⟨(s.reg 4).val, false⟩).set 5 ⟨(s.reg 5).val, false⟩).set 0
          (match v with | some x => ⟨x, true⟩ | none => ⟨(s.reg 0).val, false⟩)
        mem := s.mem.putCells (w.filter fun c => s.writableByte c.1)
        draws := s.draws + 1
        pc := s.pc + 1 }) ∧
    (s.cfg.helpersPlatform.lookup id = some h →
      exec (.callPlatform id) s = .next { s with
        regs := (((((s.regs.set 1 ⟨(s.reg 1).val, false⟩).set 2 ⟨(s.reg 2).val, false⟩).set 3 ⟨(s.reg 3).val, false⟩).set 4
          ⟨(s.reg 4).val, false⟩).set 5 ⟨(s.reg 5).val, false⟩).set 0
          (match v with | some x => ⟨x, true⟩ | none => ⟨(s.reg 0).val, false⟩)
        mem := s.mem.putCells (w.filter fun c => s.writableByte c.1)
        draws := s.draws + 1
        pc := s.pc + 1 })

/-- The spec gives them no effect; the refusal with LEGACY_PACKET = true is the model's (log 13). -/
def Obligations.LegacyPacketRefused : Prop :=
  ∀ (s : State) (x y : BitVec 4) (off : Off) (imm : Imm),
    ∀ i ∈ [Instr.ldabsw x y off imm, .ldabsh x y off imm, .ldabsb x y off imm, .ldabsdw x y off imm,
        .ldindw x y off imm, .ldindh x y off imm, .ldindb x y off imm, .ldinddw x y off imm],
      i.wellFormed s.cfg = false ∧ exec i s = .refused (.legacy s.pc)

/-- All 152 instructions, over the table `Instr.reads`. -/
def Obligations.UninitRegisterFault : Prop :=
  ∀ (s : State) (i : Instr) (r : Reg), s.firstUndefined (Instr.reads s i) = some r →
    exec i s = .next (s.faultedWith (.uninitRegister r))

/-- Rule R404. Other agents' writes (`takeEnv`) land before the instruction. -/
def Obligations.FaultsArePrecise : Prop :=
  ∀ (s t : State) (k : FaultKind), s.status = .running → t.status = .faulted k →
    (∀ i, exec i s = .next t → t = s.faultedWith k) ∧
    (step s = .next t → t = s.takeEnv.faultedWith k ∧ ∀ u, step t ≠ .next u)

/-- Rule R403, with the exited status of R35. -/
def Obligations.OnlyRunningSteps : Prop :=
  ∀ (s : State),
    (∀ k, s.status = .faulted k → (∀ t, step s ≠ .next t) ∧ ∀ v, s.exitsWith v = false) ∧
    (∀ v, s.status = .exited v → ∀ t, step s ≠ .next t)

/-- What `step` adds around `exec` is `takeEnv` (log 8). -/
def Obligations.StepRunsDecoded : Prop :=
  ∀ (s : State) (i : Instr), s.status = .running → s.pc < s.prog.length →
    decode s.cfg.endian s.cfg.localCallField (s.prog.drop s.pc) = .ok i →
    step s = exec i s.takeEnv ∧ (s.env = .silent → step s = exec i s)

/-- The two faults of the fetch. -/
def Obligations.FetchFaults : Prop :=
  ∀ (s : State), s.status = .running →
    (s.prog.length ≤ s.pc → step s = .next (s.takeEnv.faultedWith (.pcOutOfRange s.pc))) ∧
    (s.pc < s.prog.length → ∀ e, decode s.cfg.endian s.cfg.localCallField (s.prog.drop s.pc) = .error e →
      step s = .next (s.takeEnv.faultedWith (.illegalInstruction s.pc)))

/-- The input `env` is the model's form of other agents (log 8); that they write nothing else is what the spec assumes (log 22). -/
def Obligations.OtherAgentsWriteShared : Prop :=
  ∀ (s : State), s.takeEnv.regs = s.regs ∧ s.takeEnv.pc = s.pc ∧ s.takeEnv.frames = s.frames ∧ s.takeEnv.prog = s.prog ∧
    s.takeEnv.status = s.status ∧ s.takeEnv.cfg = s.cfg ∧ s.takeEnv.draws = s.draws ∧
    (∀ x, s.sharedByte x = false → s.takeEnv.mem.get? x = s.mem.get? x) ∧
    (s.env = .silent → s.takeEnv = s) ∧
    (∀ cells later, s.env = .batch cells later → s.takeEnv.env = later ∧
      ∀ x, s.sharedByte x = true → s.takeEnv.mem.get? x = (cells.reverse.lookup x).or (s.mem.get? x)) ∧
    (∀ n, s.env = .free n → s.takeEnv.env = .free (n + 1) ∧
      ∀ x, s.sharedByte x = true → s.takeEnv.mem.get? x = ((Config.freeBatch n).reverse.lookup x).or (s.mem.get? x)) ∧
    (∀ k x, (s.midway k).mem.get? x =
      if s.sharedByte x then ((s.env.now.take k).reverse.lookup x).or (s.mem.get? x) else s.mem.get? x) ∧
    ∀ x, s.sharedByte x = true ↔ x < 2 ^ 64 ∧
      ∃ lr ∈ s.live, lr.region.shared = true ∧ lr.region.base ≤ x ∧ x < lr.region.base + lr.region.len

/-- Over all 152 instructions; the table is `Instr.writes`. -/
def Obligations.RegisterFrame : Prop :=
  ∀ (s t : State) (i : Instr), exec i s = .next t →
    (∀ r, r ∉ Instr.writes i → t.reg r = s.reg r) ∧ t.prog = s.prog ∧ t.cfg = s.cfg ∧ t.env = s.env ∧
    ((∀ off imm, i ≠ .callLocal off imm) → i ≠ .exit → t.frames = s.frames ∧ t.reg 10 = s.reg 10)

/-- Memory through the read of one byte; the address stored to is computed from the base register before the instruction. -/
def Obligations.MemoryFrame : Prop :=
  ∀ (s t : State) (i : Instr), exec i s = .next t →
    (∀ b off n base, Instr.storesTo i = some (b, off, n) → s.reg b = ⟨base, true⟩ →
      ∀ x, x < (effAddr base off).toNat ∨ (effAddr base off).toNat + n ≤ x → t.byteAt x = s.byteAt x) ∧
    (Instr.storesTo i = none → Instr.isCallOrExit i = false → t.mem = s.mem ∧ ∀ x, t.byteAt x = s.byteAt x) ∧
    (i = .exit → s.frames = [] → t.mem = s.mem ∧ ∀ x, t.byteAt x = s.byteAt x)

/-- The text is fixed at load, and the parameters for a run; that the parameters stand in the state is the model's (log 4). -/
def Obligations.TextNeverChanges : Prop :=
  ∀ (s t : State), Reaches s t → t.prog = s.prog ∧ t.cfg = s.cfg

/-- The canonical form is the model's (log 18). -/
def Obligations.MemoryFormKept : Prop :=
  ∀ (s t : State), s.mem.wf → step s = .next t → t.mem.wf

/-- R10 is read-only to the program; only call_local and exit move it. -/
def Obligations.FramePointerKept : Prop :=
  ∀ (s t : State), s.framePointerOk → step s = .next t → t.framePointerOk

/-- The load check makes IllegalInstruction unreachable. -/
def Obligations.CheckedProgramPc : Prop :=
  ∀ (s t : State), s.textOk → step s = .next t →
    t.textOk ∧ ∀ k, s.status = .running → t.status ≠ .faulted (.illegalInstruction k)

/-- The invariant lets a run go on: no instruction of a checked program is refused, a shift under SHIFT_POLICY = refuse apart (log 12). -/
def Obligations.CheckedProgramNeverStuck : Prop :=
  ∀ (s : State), s.textOk → s.status = .running →
    (s.cfg.shiftPolicy = .mask → ∃ t, step s = .next t ∧ t.textOk) ∧
    ∀ r, step s = .refused r → s.cfg.shiftPolicy = .refuse ∧ r = .shiftRange s.pc

/-- The table of the entry state. The bits of an undefined register are not spoken of (log 1); that the unspecified bytes of the depth-0 frame are unlisted is the model's form (log 18). -/
def Obligations.EntryState : Prop :=
  ∀ (cfg : Config) (prog : List Slot) (mem : Memory) (env : OtherAgents),
    (∀ r ∈ ([0, 6, 7, 8, 9] : List Reg), ((entryState cfg prog mem env).reg r).defd = false) ∧
    (∀ r ∈ ([1, 2, 3, 4, 5] : List Reg),
      (∀ a, cfg.entryArgs[r.val - 1]? = some a → (entryState cfg prog mem env).reg r = ⟨a, true⟩) ∧
      (cfg.entryArgs[r.val - 1]? = none → ((entryState cfg prog mem env).reg r).defd = false)) ∧
    (entryState cfg prog mem env).reg 10 = ⟨BitVec.ofNat 64 (Config.frameBase cfg 0 + cfg.stackSize), true⟩ ∧
    (entryState cfg prog mem env).pc = 0 ∧ (entryState cfg prog mem env).frames = [] ∧
    (entryState cfg prog mem env).status = .running ∧
    ∀ x, (entryState cfg prog mem env).mem.get? x =
      if Config.frameBase cfg 0 ≤ x ∧ x < Config.frameBase cfg 0 + cfg.stackSize then none else mem.get? x

/-- Launch, and the base case of the invariants. -/
def Obligations.LaunchMeetsInvariants : Prop :=
  ∀ (cfg : Config) (prog : List Slot) (mem : Memory) (env : OtherAgents),
    (programProblem cfg prog = none → ∃ s, launch cfg prog mem env = .next s ∧ s = entryState cfg prog mem env ∧
      s.framePointerOk ∧ s.textOk ∧ (mem.wf → s.mem.wf)) ∧
    (∀ r, programProblem cfg prog = some r → launch cfg prog mem env = .refused r)

/-- The configuration and the empty program are the model's choice (log 2, log 3). -/
def Obligations.ResetState : Prop :=
  State.reset = entryState Config.testVectors [] [] .silent ∧ State.reset.mem.wf ∧ State.reset.framePointerOk ∧
  Config.sound State.reset.cfg

/-- No bit of an encoding is dropped. -/
def Obligations.DecodeEncode : Prop :=
  ∀ (e : Endian) (lcf : LocalCallField) (i : Instr) (rest : List Slot), i.unusedFieldsZero lcf = true →
    decode e lcf (encode e i ++ rest) = .ok i

/-- So a non-zero unused field, a reserved selector or a bad register number decodes to nothing. -/
def Obligations.EncodeDecode : Prop :=
  ∀ (e : Endian) (lcf : LocalCallField) (ws : List Slot) (i : Instr), decode e lcf ws = .ok i →
    encode e i = ws.take i.slots ∧ ws.take i.slots ≠ [] ∧ i.unusedFieldsZero lcf = true

/-- The lists are those of R100, class by class (BPF_LD, LDX, ST, STX, ALU, JMP, JMP32, ALU64). That NotAnInstruction is the reason reported where the program has other defects too is the model's choice (log 25), and so is the form of the other agents' writes before the step (log 8). -/
def Obligations.ReservedOpcodes : Prop :=
  ∀ op ∈ (0 :: ([0x08, 0x10, 0x60, 0x68, 0x70, 0x78, 0x80, 0x88, 0x90, 0x98, 0xa0, 0xa8, 0xb0, 0xb8, 0xc0, 0xc8, 0xd0, 0xd8, 0xe0, 0xe8, 0xf0, 0xf8] ++
    [0x01, 0x09, 0x11, 0x19, 0x21, 0x29, 0x31, 0x39, 0x41, 0x49, 0x51, 0x59, 0x81, 0x89, 0x91, 0x99, 0xa1, 0xa9, 0xb1, 0xb9, 0xc1, 0xc9, 0xd1, 0xd9, 0xe1, 0xe9, 0xf1, 0xf9] ++
    [0x02, 0x0a, 0x12, 0x1a, 0x22, 0x2a, 0x32, 0x3a, 0x42, 0x4a, 0x52, 0x5a, 0x82, 0x8a, 0x92, 0x9a, 0xa2, 0xaa, 0xb2, 0xba, 0xc2, 0xca, 0xd2, 0xda, 0xe2, 0xea, 0xf2, 0xfa] ++
    [0x03, 0x0b, 0x13, 0x1b, 0x23, 0x2b, 0x33, 0x3b, 0x43, 0x4b, 0x53, 0x5b, 0x83, 0x8b, 0x93, 0x9b, 0xa3, 0xab, 0xb3, 0xbb, 0xcb, 0xd3, 0xe3, 0xeb, 0xf3, 0xfb] ++
    [0x8c, 0xe4, 0xec, 0xf4, 0xfc] ++
    [0x0d, 0x8d, 0x9d, 0xe5, 0xed, 0xf5, 0xfd] ++
    [0x06, 0x0e, 0x86, 0x8e, 0x96, 0x9e, 0xe6, 0xee, 0xf6, 0xfe] ++
    [0x8f, 0xd7, 0xdf, 0xe7, 0xef, 0xf7, 0xff] : List Nat)),
    ∀ (e : Endian) (lcf : LocalCallField) (x y : BitVec 4) (off : Off) (imm : Imm) (rest : List Slot),
      decode e lcf (join e ⟨BitVec.ofNat 8 op, x, y, off, imm⟩ :: rest) = .error .reservedOpcode ∧
      (∀ (cfg : Config) (pre : List Slot) (starts : List (Nat × Instr)), cfg.endian = e →
        instrStarts cfg.endian cfg.localCallField pre = .ok starts →
        programProblem cfg (pre ++ join e ⟨BitVec.ofNat 8 op, x, y, off, imm⟩ :: rest) =
          some (.notAnInstruction pre.length)) ∧
      (∀ s : State, s.status = .running → s.cfg.endian = e → s.pc < s.prog.length →
        s.prog.drop s.pc = join e ⟨BitVec.ofNat 8 op, x, y, off, imm⟩ :: rest →
        step s = .next (s.takeEnv.faultedWith (.illegalInstruction s.pc)))

/-- A sanity statement on the spec's own bytes (E1 to E14, W6, M-3, AT-6, L1, and E1, E5, E8 in big-endian BPF). -/
def Obligations.SpecWordsDecode : Prop :=
  decode .little .offset [0xfffffffe000003b7] = .ok (.mov64Imm 3 0xfffffffe) ∧
  decode .little .offset [0x000000000000a90f] = .ok (.add64Reg 9 10) ∧
  decode .little .offset [0x0000000000000784] = .ok (.neg32 7) ∧
  decode .little .offset [0x00000010000005dc] = .ok (.be16 5) ∧
  decode .little .offset [0x00000000fffd0155] = .ok (.jneImm 1 0 0xfffd) ∧
  decode .little .offset [0x000000001234327e] = .ok (.jsge32Reg 2 3 0x1234) ∧
  decode .little .offset [0x0000000c00000085] = .ok (.callHelper 12) ∧
  decode .little .offset [0x0000000000031085] = .ok (.callLocal 3 0) ∧
  decode .little .offset [0x00000000fffaa469] = .ok (.ldxh 4 10 0xfffa) ∧
  decode .little .offset [0xfffffffffff00a7a] = .ok (.stdw 10 0xfff0 0xffffffff) ∧
  decode .little .offset [0x000000f1000821db] = .ok (.atomicCmpxchg64 1 8 2) ∧
  decode .little .offset [0x4433221100000218, 0x8877665500000000] = .ok (.lddw 2 0x44332211 0x88776655) ∧
  decode .little .offset [0x00000000fffe0005] = .ok (.ja 0xfffe) ∧
  decode .little .offset [0x0000000000000095] = .ok .exit ∧
  decode .little .offset [0x0000000700002118, 0x0000001000000000] = .ok (.ldMapFdValue 1 7 16) ∧
  decode .little .offset [0x00000000fffca161] = .ok (.ldxw 1 10 0xfffc) ∧
  decode .little .offset [0x00000041fff81ac3] = .ok (.atomicFetchOr32 10 0xfff8 1) ∧
  decode .little .offset [0x0000000e00000020] = .ok (.ldabsw 0 0 0 14) ∧
  decode .big .offset [0xfeffffff000030b7] = .ok (.mov64Imm 3 0xfffffffe) ∧
  decode .big .offset [0x000000003412237e] = .ok (.jsge32Reg 2 3 0x1234) ∧
  decode .big .offset [0xf1000000080012db] = .ok (.atomicCmpxchg64 1 8 2)

/-- A listed value area is shared whatever its entry says, and none lies in a frame (log 16); the drawn value is the model's (log 7). -/
def Obligations.MapValueAreasShared : Prop :=
  ∀ (s : State) (m v : Word) (lr : LiveRegion), Config.sound s.cfg → s.frames.length ≤ Config.maxCallDepth s.cfg →
    s.cfg.mapsSupported = true → s.cfg.mva.lookup m = some v → lr ∈ s.live → lr.region.base ≤ v.toNat →
    v.toNat < lr.region.base + lr.region.len →
    lr.region.shared = true ∧ (s.cfg.sharedModel = .havoc → ∀ a n,
      s.load lr a n = (truncBytes n (Config.havocValue s.draws), { s with draws := s.draws + 1 }))

/-- code_addr is injective by construction (log 10). -/
def Obligations.CodeAddrInjective : Prop :=
  ∀ (cfg : Config) (size : Nat),
    (size ≤ 2 ^ 64 → ∀ i j, i < size → j < size → codeAddrOf cfg size i = codeAddrOf cfg size j → i = j) ∧
    (cfg.codeAddr.Nodup → ∀ i v, cfg.codeAddr[i]? = some v → codeAddrOf cfg size i = v)

/-- The relation of a helper; cases and the free outcome are the model's form of it (log 9). -/
def Obligations.HelperOutcomeAllowed : Prop :=
  ∀ (s : State) (space : HelperSpace) (id : Imm) (h : Helper) (args : List Word),
    (s.helperCase? h args = none ↔
      ∀ c ∈ h.cases, ¬ (c.args = args ∧ ∀ x ∈ c.mem, s.byteAt x.1 = some x.2)) ∧
    (∀ c, s.helperCase? h args = some c → c ∈ h.cases ∧ c.args = args ∧ (∀ x ∈ c.mem, s.byteAt x.1 = some x.2) ∧
      s.outcome space id h args ∈ c.outcome :: c.others) ∧
    (s.helperCase? h args = none → ∀ rel, HelperObeys s.cfg space id rel → rel args s.byteAt (s.outcome space id h args))

/-- Other agents act at any moment of a run, however long it is; the input `env` is the model's form of them (log 8). -/
def Obligations.OtherAgentsNeverEnd : Prop :=
  ∀ (s t : State), (step s = .next t → t.env = s.env.next) ∧
    ∀ n, s.env = .free n → (step s = .next t → t.env = .free (n + 1)) ∧ (Reaches s t → ∃ k, t.env = .free (n + k))
end

