-- ==== Sys2Proof/Laws/State.lean ====
section
/-! SUPPORT. What each update of the state leaves alone, one lemma per field, and what it does to each register. -/

namespace Sys2Proof.Machine

variable (s : State)

/-! ## Registers -/

@[simp] theorem State.setReg_pc (d : WReg) (v : Word) : (s.setReg d v).pc = s.pc := rfl
@[simp] theorem State.setReg_prog (d : WReg) (v : Word) : (s.setReg d v).prog = s.prog := rfl
@[simp] theorem State.setReg_frames (d : WReg) (v : Word) : (s.setReg d v).frames = s.frames := rfl
@[simp] theorem State.setReg_mem (d : WReg) (v : Word) : (s.setReg d v).mem = s.mem := rfl
@[simp] theorem State.setReg_status (d : WReg) (v : Word) : (s.setReg d v).status = s.status := rfl
@[simp] theorem State.setReg_cfg (d : WReg) (v : Word) : (s.setReg d v).cfg = s.cfg := rfl
@[simp] theorem State.setReg_env (d : WReg) (v : Word) : (s.setReg d v).env = s.env := rfl
@[simp] theorem State.setReg_draws (d : WReg) (v : Word) : (s.setReg d v).draws = s.draws := rfl

@[simp] theorem State.setReg_reg_same (d : WReg) (v : Word) : (s.setReg d v).reg d.toReg = ⟨v, true⟩ := by
  simp [State.reg, State.setReg, WReg.toReg]

theorem State.setReg_reg_other (d : WReg) (v : Word) (i : Reg) (h : i ≠ d.toReg) : (s.setReg d v).reg i = s.reg i := by
  have : d.val ≠ i.val := fun e => h (Fin.ext e.symm)
  simp [State.reg, State.setReg, this]

@[simp] theorem State.setReg_reg_ten (d : WReg) (v : Word) : (s.setReg d v).reg 10 = s.reg 10 :=
  s.setReg_reg_other d v 10 (by intro e; have := congrArg Fin.val e; simp [WReg.toReg] at this; omega)

theorem RegFile.undefine_get (p : Reg → Bool) (r : RegFile) (i : Reg) :
    (RegFile.undefine p r)[i] = if p i then { r[i] with defd := false } else r[i] := by
  simp [RegFile.undefine]

/-! ## The program counter and memory -/

@[simp] theorem State.advance_regs (n : Nat) : (s.advance n).regs = s.regs := rfl
@[simp] theorem State.advance_prog (n : Nat) : (s.advance n).prog = s.prog := rfl
@[simp] theorem State.advance_frames (n : Nat) : (s.advance n).frames = s.frames := rfl
@[simp] theorem State.advance_mem (n : Nat) : (s.advance n).mem = s.mem := rfl
@[simp] theorem State.advance_status (n : Nat) : (s.advance n).status = s.status := rfl
@[simp] theorem State.advance_cfg (n : Nat) : (s.advance n).cfg = s.cfg := rfl
@[simp] theorem State.advance_env (n : Nat) : (s.advance n).env = s.env := rfl
@[simp] theorem State.advance_draws (n : Nat) : (s.advance n).draws = s.draws := rfl
@[simp] theorem State.advance_pc (n : Nat) : (s.advance n).pc = s.pc + n := rfl
@[simp] theorem State.advance_reg (n : Nat) (i : Reg) : (s.advance n).reg i = s.reg i := rfl

@[simp] theorem State.store_regs (a : Word) (n : Nat) (v : Word) : (s.store a n v).regs = s.regs := rfl
@[simp] theorem State.store_pc (a : Word) (n : Nat) (v : Word) : (s.store a n v).pc = s.pc := rfl
@[simp] theorem State.store_prog (a : Word) (n : Nat) (v : Word) : (s.store a n v).prog = s.prog := rfl
@[simp] theorem State.store_frames (a : Word) (n : Nat) (v : Word) : (s.store a n v).frames = s.frames := rfl
@[simp] theorem State.store_status (a : Word) (n : Nat) (v : Word) : (s.store a n v).status = s.status := rfl
@[simp] theorem State.store_cfg (a : Word) (n : Nat) (v : Word) : (s.store a n v).cfg = s.cfg := rfl
@[simp] theorem State.store_env (a : Word) (n : Nat) (v : Word) : (s.store a n v).env = s.env := rfl
@[simp] theorem State.store_draws (a : Word) (n : Nat) (v : Word) : (s.store a n v).draws = s.draws := rfl
@[simp] theorem State.store_mem (a : Word) (n : Nat) (v : Word) :
    (s.store a n v).mem = s.mem.putBytes a.toNat (toBytes s.cfg.endian n v) := rfl
@[simp] theorem State.store_reg (a : Word) (n : Nat) (v : Word) (i : Reg) : (s.store a n v).reg i = s.reg i := rfl
@[simp] theorem State.store_live (a : Word) (n : Nat) (v : Word) : (s.store a n v).live = s.live := rfl

@[simp] theorem State.load_regs (lr : LiveRegion) (a : Word) (n : Nat) : (s.load lr a n).2.regs = s.regs := by
  unfold State.load; split <;> (try split) <;> rfl
@[simp] theorem State.load_pc (lr : LiveRegion) (a : Word) (n : Nat) : (s.load lr a n).2.pc = s.pc := by
  unfold State.load; split <;> (try split) <;> rfl
@[simp] theorem State.load_prog (lr : LiveRegion) (a : Word) (n : Nat) : (s.load lr a n).2.prog = s.prog := by
  unfold State.load; split <;> (try split) <;> rfl
@[simp] theorem State.load_frames (lr : LiveRegion) (a : Word) (n : Nat) : (s.load lr a n).2.frames = s.frames := by
  unfold State.load; split <;> (try split) <;> rfl
@[simp] theorem State.load_mem (lr : LiveRegion) (a : Word) (n : Nat) : (s.load lr a n).2.mem = s.mem := by
  unfold State.load; split <;> (try split) <;> rfl
@[simp] theorem State.load_status (lr : LiveRegion) (a : Word) (n : Nat) : (s.load lr a n).2.status = s.status := by
  unfold State.load; split <;> (try split) <;> rfl
@[simp] theorem State.load_cfg (lr : LiveRegion) (a : Word) (n : Nat) : (s.load lr a n).2.cfg = s.cfg := by
  unfold State.load; split <;> (try split) <;> rfl
@[simp] theorem State.load_env (lr : LiveRegion) (a : Word) (n : Nat) : (s.load lr a n).2.env = s.env := by
  unfold State.load; split <;> (try split) <;> rfl
@[simp] theorem State.load_reg (lr : LiveRegion) (a : Word) (n : Nat) (i : Reg) : (s.load lr a n).2.reg i = s.reg i := by
  unfold State.load; split <;> (try split) <;> rfl

/-- A read changes nothing, or advances the draw counter. -/
theorem State.load_state (lr : LiveRegion) (a : Word) (n : Nat) :
    (s.load lr a n).2 = s ∨ (s.load lr a n).2 = { s with draws := s.draws + 1 } := by
  unfold State.load
  split
  · exact .inr rfl
  · split
    · exact .inr rfl
    · exact .inl rfl

/-- A read of a shared region with `havoc` is a draw. -/
theorem State.load_havoc {lr : LiveRegion} (a : Word) (n : Nat) (h : lr.region.shared = true)
    (hm : s.cfg.sharedModel = .havoc) :
    s.load lr a n = (truncBytes n (Config.havocValue s.draws), { s with draws := s.draws + 1 }) := by
  simp [State.load, h, hm]

/-- A misaligned read of a shared region with `sc` sees each byte at a moment of its own. -/
theorem State.load_seen {lr : LiveRegion} {a : Word} {n : Nat} (h : lr.region.shared = true)
    (hm : s.cfg.sharedModel = .sc) (ha : misaligned a n = true) :
    s.load lr a n = (ofBytes s.cfg.endian (s.seenBytes lr a.toNat n), { s with draws := s.draws + 1 }) := by
  simp [State.load, h, hm, ha]

/-- Every other read returns the bytes, and changes nothing. -/
theorem State.load_bytes {lr : LiveRegion} {a : Word} {n : Nat}
    (h : lr.region.shared = false ∨ s.cfg.sharedModel = .sc ∧ misaligned a n = false) :
    s.load lr a n = (s.valueAt lr a n, s) := by
  rcases h with h | ⟨hm, ha⟩
  · simp [State.load, h]
  · simp [State.load, hm, ha]

/-! ## Calls, returns and helpers -/

@[simp] theorem State.enter_prog (t : Nat) : (s.enter t).prog = s.prog := rfl
@[simp] theorem State.enter_status (t : Nat) : (s.enter t).status = s.status := rfl
@[simp] theorem State.enter_cfg (t : Nat) : (s.enter t).cfg = s.cfg := rfl
@[simp] theorem State.enter_env (t : Nat) : (s.enter t).env = s.env := rfl
@[simp] theorem State.enter_pc (t : Nat) : (s.enter t).pc = t := rfl
@[simp] theorem State.enter_mem (t : Nat) : (s.enter t).mem =
    s.mem.forget (Config.frameBase s.cfg (s.frames.length + 1)) s.cfg.stackSize := rfl
@[simp] theorem State.enter_draws (t : Nat) : (s.enter t).draws = s.draws + 1 := rfl
@[simp] theorem State.enter_frames (t : Nat) : (s.enter t).frames =
    ⟨s.pc + 1, s.reg 6, s.reg 7, s.reg 8, s.reg 9, s.reg 10, s.draws⟩ :: s.frames := rfl

/-- The registers of a BPF-local function at its first instruction. -/
theorem State.enter_reg (t : Nat) (i : Reg) : (s.enter t).reg i =
    if i = 10 then ⟨Config.frameTop s.cfg (s.frames.length + 1), true⟩
    else if isFresh i then { s.reg i with defd := false } else s.reg i := by
  by_cases h : i = 10
  · subst h; exact Vector.getElem_set_self (by omega)
  · have h' : ¬ 10 = i.val := fun e => h (Fin.ext e.symm)
    have := RegFile.undefine_get isFresh s.regs i
    simp only [Fin.getElem_fin] at this
    simp [State.reg, State.enter, h, h', this]

@[simp] theorem State.leave_prog (r : CallRecord) (rest : List CallRecord) : (s.leave r rest).prog = s.prog := rfl
@[simp] theorem State.leave_status (r : CallRecord) (rest : List CallRecord) : (s.leave r rest).status = s.status := rfl
@[simp] theorem State.leave_cfg (r : CallRecord) (rest : List CallRecord) : (s.leave r rest).cfg = s.cfg := rfl
@[simp] theorem State.leave_env (r : CallRecord) (rest : List CallRecord) : (s.leave r rest).env = s.env := rfl
@[simp] theorem State.leave_draws (r : CallRecord) (rest : List CallRecord) : (s.leave r rest).draws = s.draws := rfl
@[simp] theorem State.leave_pc (r : CallRecord) (rest : List CallRecord) : (s.leave r rest).pc = r.retPc := rfl
@[simp] theorem State.leave_frames (r : CallRecord) (rest : List CallRecord) : (s.leave r rest).frames = rest := rfl
@[simp] theorem State.leave_mem (r : CallRecord) (rest : List CallRecord) : (s.leave r rest).mem =
    s.mem.forget (Config.frameBase s.cfg (rest.length + 1)) s.cfg.stackSize := rfl

/-- The registers after the return from a BPF-local function. -/
theorem State.leave_reg (r : CallRecord) (rest : List CallRecord) (i : Reg) : (s.leave r rest).reg i =
    if i = 10 then r.saved10 else if i = 9 then r.saved9 else if i = 8 then r.saved8 else if i = 7 then r.saved7
    else if i = 6 then r.saved6 else if isArg i then { s.reg i with defd := false } else s.reg i := by
  have key : ∀ j : Nat, ∀ k : Reg, k.val = j → ((i = k) ↔ (j = i.val)) :=
    fun j k hk => ⟨fun e => by rw [e, hk], fun e => Fin.ext (by omega)⟩
  have := RegFile.undefine_get isArg s.regs i
  simp only [Fin.getElem_fin] at this
  simp only [State.reg, State.leave, Fin.getElem_fin, Vector.getElem_set, this, key 10 10 rfl, key 9 9 rfl, key 8 8 rfl,
    key 7 7 rfl, key 6 6 rfl]

@[simp] theorem State.afterHelper_prog (v : Option Word) (w : List Host.Cell) : (s.afterHelper v w).prog = s.prog := rfl
@[simp] theorem State.afterHelper_frames (v : Option Word) (w : List Host.Cell) : (s.afterHelper v w).frames = s.frames := rfl
@[simp] theorem State.afterHelper_status (v : Option Word) (w : List Host.Cell) : (s.afterHelper v w).status = s.status := rfl
@[simp] theorem State.afterHelper_cfg (v : Option Word) (w : List Host.Cell) : (s.afterHelper v w).cfg = s.cfg := rfl
@[simp] theorem State.afterHelper_env (v : Option Word) (w : List Host.Cell) : (s.afterHelper v w).env = s.env := rfl
@[simp] theorem State.afterHelper_pc (v : Option Word) (w : List Host.Cell) : (s.afterHelper v w).pc = s.pc + 1 := rfl
@[simp] theorem State.afterHelper_draws (v : Option Word) (w : List Host.Cell) : (s.afterHelper v w).draws = s.draws + 1 := rfl
@[simp] theorem State.afterHelper_mem (v : Option Word) (w : List Host.Cell) :
    (s.afterHelper v w).mem = s.mem.putCells (w.filter fun c => s.writableByte c.1) := rfl

/-- The registers after a helper call. -/
theorem State.afterHelper_reg (v : Option Word) (w : List Host.Cell) (i : Reg) : (s.afterHelper v w).reg i =
    if i = 0 then (match v with | some x => ⟨x, true⟩ | none => ⟨(s.reg 0).val, false⟩)
    else if isArg i then { s.reg i with defd := false } else s.reg i := by
  by_cases h : i = 0
  · subst h; cases v <;> exact Vector.getElem_set_self (by omega)
  · have h' : ¬ 0 = i.val := fun e => h (Fin.ext e.symm)
    have := RegFile.undefine_get isArg s.regs i
    simp only [Fin.getElem_fin] at this
    simp [State.reg, State.afterHelper, h, h', this]

/-! ## Other agents -/

@[simp] theorem State.land_regs (cs : List Host.Cell) : (s.land cs).regs = s.regs := rfl
@[simp] theorem State.land_pc (cs : List Host.Cell) : (s.land cs).pc = s.pc := rfl
@[simp] theorem State.land_prog (cs : List Host.Cell) : (s.land cs).prog = s.prog := rfl
@[simp] theorem State.land_frames (cs : List Host.Cell) : (s.land cs).frames = s.frames := rfl
@[simp] theorem State.land_status (cs : List Host.Cell) : (s.land cs).status = s.status := rfl
@[simp] theorem State.land_cfg (cs : List Host.Cell) : (s.land cs).cfg = s.cfg := rfl
@[simp] theorem State.land_env (cs : List Host.Cell) : (s.land cs).env = s.env := rfl
@[simp] theorem State.land_draws (cs : List Host.Cell) : (s.land cs).draws = s.draws := rfl
@[simp] theorem State.land_live (cs : List Host.Cell) : (s.land cs).live = s.live := rfl
@[simp] theorem State.land_mem (cs : List Host.Cell) :
    (s.land cs).mem = s.mem.putCells (cs.filter fun c => s.sharedByte c.1) := rfl

@[simp] theorem State.takeEnv_regs : s.takeEnv.regs = s.regs := rfl
@[simp] theorem State.takeEnv_pc : s.takeEnv.pc = s.pc := rfl
@[simp] theorem State.takeEnv_prog : s.takeEnv.prog = s.prog := rfl
@[simp] theorem State.takeEnv_frames : s.takeEnv.frames = s.frames := rfl
@[simp] theorem State.takeEnv_status : s.takeEnv.status = s.status := rfl
@[simp] theorem State.takeEnv_cfg : s.takeEnv.cfg = s.cfg := rfl
@[simp] theorem State.takeEnv_draws : s.takeEnv.draws = s.draws := rfl

@[simp] theorem State.takeEnv_env : s.takeEnv.env = s.env.next := rfl
@[simp] theorem State.takeEnv_mem : s.takeEnv.mem = s.mem.putCells (s.env.now.filter fun c => s.sharedByte c.1) := rfl
@[simp] theorem State.takeEnv_live : s.takeEnv.live = s.live := rfl

/-- Other agents that are silent change nothing. -/
theorem State.takeEnv_silent (h : s.env = .silent) : s.takeEnv = s := by
  unfold State.takeEnv; rw [h]; cases s; cases h; rfl

theorem State.midway_silent (h : s.env = .silent) (k : Nat) : s.midway k = s := by
  unfold State.midway; rw [h, OtherAgents.now, List.take_nil]; rfl

/-! ## The entry state -/

@[simp] theorem entryState_pc (cfg : Config) (p : List Slot) (m : Memory) (e : OtherAgents) : (entryState cfg p m e).pc = 0 := rfl
@[simp] theorem entryState_prog (cfg : Config) (p : List Slot) (m : Memory) (e : OtherAgents) : (entryState cfg p m e).prog = p := rfl
@[simp] theorem entryState_frames (cfg : Config) (p : List Slot) (m : Memory) (e : OtherAgents) : (entryState cfg p m e).frames = [] := rfl
@[simp] theorem entryState_status (cfg : Config) (p : List Slot) (m : Memory) (e : OtherAgents) : (entryState cfg p m e).status = .running := rfl
@[simp] theorem entryState_cfg (cfg : Config) (p : List Slot) (m : Memory) (e : OtherAgents) : (entryState cfg p m e).cfg = cfg := rfl
@[simp] theorem entryState_env (cfg : Config) (p : List Slot) (m : Memory) (e : OtherAgents) : (entryState cfg p m e).env = e := rfl

end Sys2Proof.Machine
end

