-- ==== Sys2Proof/Laws/Memory.lean ====
section
/-! SUPPORT. Data memory: what each operation does to each byte, and that it keeps the canonical form. -/

namespace Sys2Proof.Machine

/-! ## Reading back -/

theorem Memory.get?_cons (c : Host.Cell) (m : Memory) (x : Nat) :
    Memory.get? (c :: m) x = if x = c.1 then some c.2 else m.get? x := by
  obtain ⟨k, v⟩ := c
  by_cases h : x = k
  · subst h; simp [Memory.get?]
  · have : (x == k) = false := by simpa using h
    simp [Memory.get?, List.lookup, this, h]

/-- Reading after writing one byte. -/
theorem Memory.get?_put (m : Memory) (a : Nat) (b : Byte) (x : Nat) :
    (m.put a b).get? x = if x = a then some b else m.get? x := by
  induction m with
  | nil => simp [Memory.put, Memory.get?_cons]
  | cons c m ih =>
    simp only [Memory.put]
    split
    · rw [Memory.get?_cons]
    · split
      · rename_i h
        simp only [Memory.get?_cons]
        subst h
        split <;> rfl
      · rename_i h1 h2
        simp only [Memory.get?_cons, ih]
        by_cases hx : x = a
        · subst hx; simp [h2]
        · simp [hx]

/-- Reading after writing bytes at rising addresses. -/
theorem Memory.get?_putBytes (m : Memory) (a : Nat) (bs : List Byte) (x : Nat) :
    (m.putBytes a bs).get? x = if a ≤ x ∧ x < a + bs.length then bs[x - a]? else m.get? x := by
  induction bs generalizing m a with
  | nil =>
    have : ¬ (a ≤ x ∧ x < a) := by omega
    simp [Memory.putBytes, this]
  | cons b bs ih =>
    simp only [Memory.putBytes, ih, Memory.get?_put, List.length_cons]
    by_cases h : x = a
    · subst h
      have h1 : ¬ (x + 1 ≤ x ∧ x < x + 1 + bs.length) := by omega
      rw [if_neg h1]
      simp
    · by_cases h2 : a ≤ x ∧ x < a + (bs.length + 1)
      · have h3 : a + 1 ≤ x ∧ x < a + 1 + bs.length := by omega
        have h4 : x - a = (x - (a + 1)) + 1 := by omega
        rw [if_pos h3, if_pos h2, h4, List.getElem?_cons_succ]
      · have h3 : ¬ (a + 1 ≤ x ∧ x < a + 1 + bs.length) := by omega
        rw [if_neg h3, if_neg h, if_neg h2]

/-- Reading after writing cells: the last cell of a byte counts. -/
theorem Memory.get?_putCells_last (m : Memory) (cs : List Host.Cell) (x : Nat) :
    (m.putCells cs).get? x = (cs.reverse.lookup x).or (m.get? x) := by
  induction cs generalizing m with
  | nil => rfl
  | cons c cs ih =>
    obtain ⟨a, b⟩ := c
    rw [Memory.putCells, ih, Memory.get?_put, List.reverse_cons, List.lookup_append, Option.or_assoc]
    by_cases h : x = a
    · subst h; simp [List.lookup]
    · have : (x == a) = false := by simpa using h
      simp [List.lookup, this, h]

/-- Reading a byte no cell names after writing cells. -/
theorem Memory.get?_putCells (m : Memory) (cs : List Host.Cell) (x : Nat) (h : ∀ c ∈ cs, c.1 ≠ x) :
    (m.putCells cs).get? x = m.get? x := by
  induction cs generalizing m with
  | nil => rfl
  | cons c cs ih =>
    rw [Memory.putCells, ih _ fun d hd => h d (List.mem_cons_of_mem _ hd), Memory.get?_put,
      if_neg fun e => h c List.mem_cons_self e.symm]

/-- Reading after a range is made unwritten. -/
theorem Memory.get?_forget (m : Memory) (base len x : Nat) :
    (m.forget base len).get? x = if base ≤ x ∧ x < base + len then none else m.get? x := by
  induction m with
  | nil => simp [Memory.forget, Memory.get?]
  | cons c m ih =>
    simp only [Memory.forget] at ih ⊢
    rw [List.filter_cons]
    by_cases hc : base ≤ c.1 ∧ c.1 < base + len
    · rw [if_neg (by simp [hc]), ih, Memory.get?_cons]
      by_cases hx : x = c.1
      · subst hx; simp [hc]
      · simp [hx]
    · rw [if_pos (by simp; omega), Memory.get?_cons, ih, Memory.get?_cons]
      by_cases hx : x = c.1
      · subst hx; simp [hc]
      · simp [hx]

/-! ## The canonical form -/

theorem Memory.mem_put {m : Memory} {a : Nat} {b : Byte} {c : Host.Cell} (h : c ∈ m.put a b) :
    c = (a, b) ∨ c ∈ m := by
  induction m with
  | nil => simpa [Memory.put] using h
  | cons d m ih =>
    simp only [Memory.put] at h
    split at h
    · simpa using h
    · split at h
      · rcases List.mem_cons.1 h with h | h
        · exact .inl h
        · exact .inr (List.mem_cons_of_mem _ h)
      · rcases List.mem_cons.1 h with h | h
        · exact .inr (h ▸ List.mem_cons_self)
        · exact (ih h).imp_right (List.mem_cons_of_mem _)

/-- A write of one byte keeps the canonical form. -/
theorem Memory.wf_put {m : Memory} (h : m.wf) {a : Nat} (ha : a < 2 ^ 64) (b : Byte) : (m.put a b).wf := by
  refine ⟨?_, fun c hc => (Memory.mem_put hc).elim (fun e => e ▸ ha) (h.2 c)⟩
  have h1 := h.1
  clear h ha
  induction m with
  | nil => simp [Memory.put]
  | cons c m ih =>
    simp only [List.map_cons, List.pairwise_cons] at h1
    simp only [Memory.put]
    split
    · rename_i hlt
      simp only [List.map_cons, List.pairwise_cons, List.mem_cons]
      exact ⟨fun x hx => hx.elim (fun e => e ▸ hlt) fun hx => Nat.lt_trans hlt (h1.1 x hx), h1⟩
    · split
      · rename_i heq
        simp only [List.map_cons, List.pairwise_cons]
        exact ⟨fun x hx => heq ▸ h1.1 x hx, h1.2⟩
      · rename_i h2 h3
        simp only [List.map_cons, List.pairwise_cons]
        refine ⟨fun x hx => ?_, ih h1.2⟩
        obtain ⟨d, hd, rfl⟩ := List.mem_map.1 hx
        rcases Memory.mem_put hd with e | hd
        · subst e; simp only; omega
        · exact h1.1 _ (List.mem_map_of_mem hd)

/-- A write of bytes keeps the canonical form. -/
theorem Memory.wf_putBytes {m : Memory} (h : m.wf) (a : Nat) (bs : List Byte) (ha : a + bs.length ≤ 2 ^ 64) :
    (m.putBytes a bs).wf := by
  induction bs generalizing m a with
  | nil => exact h
  | cons b bs ih =>
    simp only [List.length_cons] at ha
    exact ih (Memory.wf_put h (by omega) b) (a + 1) (by omega)

/-- A write of cells keeps the canonical form. -/
theorem Memory.wf_putCells {m : Memory} (h : m.wf) (cs : List Host.Cell) (hc : ∀ c ∈ cs, c.1 < 2 ^ 64) :
    (m.putCells cs).wf := by
  induction cs generalizing m with
  | nil => exact h
  | cons c cs ih =>
    exact ih (Memory.wf_put h (hc c List.mem_cons_self) c.2) fun d hd => hc d (List.mem_cons_of_mem _ hd)

/-- Making a range unwritten keeps the canonical form. -/
theorem Memory.wf_forget {m : Memory} (h : m.wf) (base len : Nat) : (m.forget base len).wf :=
  ⟨h.1.sublist (List.filter_sublist.map _), fun c hc => h.2 c (List.mem_filter.1 hc).1⟩

/-! ## Lengths -/

@[simp] theorem lowBytes_length (v : Word) (n : Nat) : (lowBytes v n).length = n := by
  induction n with
  | zero => rfl
  | succ n ih => simp [lowBytes, ih]

@[simp] theorem toBytes_length (e : Endian) (n : Nat) (v : Word) : (toBytes e n v).length = n := by
  cases e <;> simp [toBytes]

@[simp] theorem State.bytesIn_length (s : State) (lr : LiveRegion) (a n : Nat) : (s.bytesIn lr a n).length = n := by
  induction n generalizing a with
  | zero => rfl
  | succ n ih => simp [State.bytesIn, ih]

/-! ## Accesses -/

/-- A region found for an access: it is live, has the permission, and holds all the bytes (R57 step (2)). -/
theorem State.region?_some {s : State} {need : Access} {a : Word} {n : Nat} {lr : LiveRegion}
    (h : s.region? need a n = some lr) :
    lr ∈ s.live ∧ Region.allows lr.region need = true ∧ lr.region.base ≤ a.toNat ∧
      a.toNat + n ≤ lr.region.base + lr.region.len ∧ a.toNat + n ≤ 2 ^ 64 := by
  have h1 := List.find?_some h
  have h2 := List.mem_of_find?_eq_some h
  simp only [Region.covers, Bool.and_eq_true, decide_eq_true_eq] at h1
  exact ⟨h2, h1.1.1, h1.1.2.1, h1.1.2.2, h1.2⟩

/-- A store keeps the canonical form where a region was found for it. -/
theorem State.store_wf {s : State} (h : s.mem.wf) {need : Access} {a : Word} {n : Nat} {lr : LiveRegion}
    (hr : s.region? need a n = some lr) (v : Word) : (s.store a n v).mem.wf := by
  simp only [State.store_mem]
  exact Memory.wf_putBytes h _ _ (by simpa using (State.region?_some hr).2.2.2.2)

/-- A store changes no byte outside the bytes it stores (R58). -/
theorem State.store_byteAt (s : State) (a : Word) (n : Nat) (v : Word) (x : Nat)
    (h : x < a.toNat ∨ a.toNat + n ≤ x) : (s.store a n v).byteAt x = s.byteAt x := by
  have hx : ¬ (a.toNat ≤ x ∧ x < a.toNat + n) := by omega
  simp only [State.byteAt, State.byteIn, State.store_live, State.store_mem, Memory.get?_putBytes, toBytes_length,
    if_neg hx]

/-- What other agents write keeps the canonical form. -/
theorem State.land_wf {s : State} (h : s.mem.wf) (cs : List Host.Cell) : (s.land cs).mem.wf := by
  refine Memory.wf_putCells h _ fun c hc => ?_
  have := (List.mem_filter.1 hc).2
  simp only [State.sharedByte, Bool.and_eq_true, decide_eq_true_eq] at this
  exact this.1

theorem State.takeEnv_wf {s : State} (h : s.mem.wf) : s.takeEnv.mem.wf := State.land_wf h s.env.now

/-- What other agents write leaves bytes of private regions alone. -/
theorem State.land_private (s : State) (cs : List Host.Cell) {x : Nat} (h : s.sharedByte x = false) :
    (s.land cs).mem.get? x = s.mem.get? x := by
  refine Memory.get?_putCells _ _ _ fun c hc e => ?_
  have := (List.mem_filter.1 hc).2
  rw [e, h] at this
  cases this

theorem State.bytesIn_range (s : State) (lr : LiveRegion) (a n : Nat) :
    s.bytesIn lr a n = (List.range n).map fun i => s.byteIn lr (a + i) := by
  induction n generalizing a with
  | zero => rfl
  | succ n ih =>
    rw [State.bytesIn, ih, List.range_succ_eq_map, List.map_cons, List.map_map]
    simp only [Nat.add_zero, List.cons.injEq, true_and]
    exact List.map_congr_left fun i _ => by simp [Nat.add_assoc, Nat.add_comm 1 i]

/-- Where other agents are silent, a misaligned read of a shared region sees the bytes that stand there. -/
theorem State.seenBytes_silent (s : State) (lr : LiveRegion) (a n : Nat) (h : s.env = .silent) :
    s.seenBytes lr a n = s.bytesIn lr a n := by
  rw [State.bytesIn_range, State.seenBytes]
  exact List.map_congr_left fun i _ => by rw [State.midway_silent s h]

/-- What a helper writes keeps the canonical form. -/
theorem State.afterHelper_wf {s : State} (h : s.mem.wf) (v : Option Word) (w : List Host.Cell) :
    (s.afterHelper v w).mem.wf := by
  refine Memory.wf_putCells h _ fun c hc => ?_
  have := (List.mem_filter.1 hc).2
  simp only [State.writableByte, Bool.and_eq_true, decide_eq_true_eq] at this
  exact this.1

end Sys2Proof.Machine
end

