-- ==== Sys2Proof/Laws/Ops.lean ====
section
/-! SUPPORT. For each shared operation, once, everything it can do if it answers a next state; and when it does. -/

namespace Sys2Proof.Machine

variable {s t : State}

/-! ## Registers and faults -/

theorem State.raise_next {k : FaultKind} (h : s.raise k = .next t) : t = { s with status := .faulted k } := by
  simpa [State.raise] using h.symm

theorem State.withReg_defd {i : Reg} {v : Word} (h : s.reg i = ⟨v, true⟩) (k : Word → Result) : s.withReg i k = k v := by
  simp [State.withReg, h]

theorem State.withReg_undef {i : Reg} (h : (s.reg i).defd = false) (k : Word → Result) :
    s.withReg i k = .next { s with status := .faulted (.uninitRegister i) } := by
  simp [State.withReg, h, State.raise]

theorem State.withReg_next {i : Reg} {k : Word → Result} (h : s.withReg i k = .next t) :
    ((s.reg i).defd = true ∧ k (s.reg i).val = .next t) ∨
    ((s.reg i).defd = false ∧ t = { s with status := .faulted (.uninitRegister i) }) := by
  unfold State.withReg at h
  split at h
  · exact .inl ⟨‹_›, h⟩
  · rename_i hd; exact .inr ⟨by simpa using hd, State.raise_next h⟩

theorem State.withRegs_next {is : List Reg} {k : List Word → Result} (h : s.withRegs is k = .next t) :
    ((∀ i ∈ is, (s.reg i).defd = true) ∧ k (is.map fun i => (s.reg i).val) = .next t) ∨
    (∃ i ∈ is, (s.reg i).defd = false ∧ t = { s with status := .faulted (.uninitRegister i) }) := by
  induction is generalizing k with
  | nil => exact .inl ⟨by simp, h⟩
  | cons i is ih =>
    rcases State.withReg_next h with ⟨hd, h⟩ | ⟨hd, rfl⟩
    · rcases ih h with ⟨hds, h⟩ | ⟨j, hj, hd', rfl⟩
      · exact .inl ⟨by simpa using ⟨hd, hds⟩, h⟩
      · exact .inr ⟨j, List.mem_cons_of_mem _ hj, hd', rfl⟩
    · exact .inr ⟨i, List.mem_cons_self, hd, rfl⟩

theorem State.finish_next {d : WReg} {r : Word} (h : s.finish d r = .next t) : t = (s.setReg d r).advance 1 := by
  simpa [State.finish] using h.symm

theorem State.finishWide_next {d : WReg} {r : Word} (h : s.finishWide d r = .next t) :
    t = (s.setReg d r).advance 2 := by
  simpa [State.finishWide] using h.symm

/-! ## Control -/

theorem target?_some {pc : Nat} {d : Int} {n : Nat} : target? pc d = some n ↔ (n : Int) = pc + 1 + d := by
  unfold target?
  split <;> simp <;> omega

theorem State.jump_next {d : Int} (h : s.jump d = .next t) : ∃ n, target? s.pc d = some n ∧ t = { s with pc := n } := by
  unfold State.jump at h
  split at h
  · exact ⟨_, ‹_›, by simpa using h.symm⟩
  · cases h

theorem State.branch_next {c : Bool} {off : Off} (h : s.branch c off = .next t) :
    (c = true ∧ ∃ n, target? s.pc off.toInt = some n ∧ t = { s with pc := n }) ∨
    (c = false ∧ t = { s with pc := s.pc + 1 }) := by
  unfold State.branch at h
  split at h
  · exact .inl ⟨‹_›, State.jump_next h⟩
  · rename_i hd; exact .inr ⟨by simpa using hd, by simpa [State.advance] using h.symm⟩

theorem State.withShift_next {w : Nat} {b : BitVec w} {k : Nat → Result} (h : s.withShift b k = .next t) :
    ∃ n, shiftAmount? s.cfg.shiftPolicy b = some n ∧ k n = .next t := by
  unfold State.withShift at h
  split at h
  · exact ⟨_, ‹_›, h⟩
  · cases h

theorem State.withOperand_next {v : Option Word} {k : Word → Result} (h : s.withOperand v k = .next t) :
    ∃ a, v = some a ∧ k a = .next t := by
  unfold State.withOperand at h
  split at h
  · exact ⟨_, rfl, h⟩
  · cases h

theorem State.withTarget_next {d : Int} {k : Nat → Result} (h : s.withTarget d k = .next t) :
    ∃ n, target? s.pc d = some n ∧ k n = .next t := by
  unfold State.withTarget at h
  split at h
  · exact ⟨_, ‹_›, h⟩
  · cases h

/-! ## Memory accesses -/

theorem State.memRead_next {a : Word} {n : Nat} {k : Word → State → Result} (h : s.memRead a n k = .next t) :
    t = { s with status := .faulted (.misaligned a) } ∨
    (s.region? .read a n = none ∧ t = { s with status := .faulted (.memAccess a) }) ∨
    ∃ lr, s.region? .read a n = some lr ∧ k (s.load lr a n).1 (s.load lr a n).2 = .next t := by
  unfold State.memRead at h
  split at h
  · exact .inl (State.raise_next h)
  · split at h
    · exact .inr (.inl ⟨‹_›, State.raise_next h⟩)
    · exact .inr (.inr ⟨_, ‹_›, h⟩)

theorem State.memWrite_next {a : Word} {n : Nat} {v : Word} {k : State → Result} (h : s.memWrite a n v k = .next t) :
    t = { s with status := .faulted (.misaligned a) } ∨
    (s.region? .write a n = none ∧ t = { s with status := .faulted (.memAccess a) }) ∨
    ∃ lr, s.region? .write a n = some lr ∧ k (s.store a n v) = .next t := by
  unfold State.memWrite at h
  split at h
  · exact .inl (State.raise_next h)
  · split at h
    · exact .inr (.inl ⟨‹_›, State.raise_next h⟩)
    · exact .inr (.inr ⟨_, ‹_›, h⟩)

theorem State.atomicRMW_next {a : Word} {n : Nat} {f : Word → Word} {k : Word → State → Result}
    (h : s.atomicRMW a n f k = .next t) :
    t = { s with status := .faulted (.misaligned a) } ∨
    (s.region? .rmw a n = none ∧ t = { s with status := .faulted (.memAccess a) }) ∨
    ∃ lr, s.region? .rmw a n = some lr ∧
      k (s.load lr a n).1 ((s.load lr a n).2.store a n (f (s.load lr a n).1)) = .next t := by
  unfold State.atomicRMW at h
  split at h
  · exact .inl (State.raise_next h)
  · split at h
    · exact .inr (.inl ⟨‹_›, State.raise_next h⟩)
    · exact .inr (.inr ⟨_, ‹_›, h⟩)

/-! ## Calls, returns and helpers -/

theorem State.call_next {d : Int} (h : s.call d = .next t) :
    (s.frames.length = Config.maxCallDepth s.cfg ∧ t = { s with status := .faulted (.callDepth s.pc) }) ∨
    (s.frames.length ≠ Config.maxCallDepth s.cfg ∧ ∃ n, target? s.pc d = some n ∧ t = s.enter n) := by
  unfold State.call at h
  split at h
  · exact .inl ⟨‹_›, State.raise_next h⟩
  · split at h
    · exact .inr ⟨‹_›, _, ‹_›, by simpa using h.symm⟩
    · cases h

theorem State.ret_next (h : s.ret = .next t) :
    (s.frames = [] ∧ (s.reg 0).defd = true ∧ t = { s with status := .exited (s.reg 0).val }) ∨
    (s.frames = [] ∧ (s.reg 0).defd = false ∧ t = { s with status := .faulted (.uninitRegister 0) }) ∨
    (∃ r rest, s.frames = r :: rest ∧ t = s.leave r rest) := by
  unfold State.ret at h
  split at h
  · rcases State.withReg_next h with ⟨hd, h⟩ | ⟨hd, h⟩
    · exact .inl ⟨‹_›, hd, by simpa using h.symm⟩
    · exact .inr (.inl ⟨‹_›, hd, h⟩)
  · exact .inr (.inr ⟨_, _, ‹_›, by simpa using h.symm⟩)

theorem State.helper_next {sp : HelperSpace} {table : List (Imm × Helper)} {id : Imm} (h : s.helper sp table id = .next t) :
    ∃ e, table.lookup id = some e ∧
      ((∃ i ∈ argRegs e.arity, (s.reg i).defd = false ∧ t = { s with status := .faulted (.uninitRegister i) }) ∨
       (∃ info, t = { s with status := .faulted (.helperFault info) }) ∨
       (∃ v w, t = s.afterHelper v w)) := by
  unfold State.helper at h
  split at h
  · cases h
  · refine ⟨_, ‹_›, ?_⟩
    rcases State.withRegs_next h with ⟨-, h⟩ | h
    · split at h
      · exact .inr (.inl ⟨_, State.raise_next h⟩)
      · exact .inr (.inr ⟨_, _, by simpa using h.symm⟩)
    · exact .inl h

/-- The case that counts is one of the helper's, for these arguments and this memory. -/
theorem State.helperCase?_some {h : Helper} {args : List Word} {c : HelperCase} (hc : s.helperCase? h args = some c) :
    c ∈ h.cases ∧ c.args = args ∧ ∀ x ∈ c.mem, s.byteAt x.1 = some x.2 := by
  have h1 := List.find?_some hc
  simp only [State.caseApplies, Bool.and_eq_true, decide_eq_true_eq, List.all_eq_true] at h1
  exact ⟨List.mem_of_find?_eq_some hc, h1⟩

/-- What is picked of a case is one of its outcomes. -/
theorem HelperCase.pick_mem (c : HelperCase) (k : Nat) : HelperCase.pick c k ∈ c.outcome :: c.others := by
  unfold HelperCase.pick
  rw [List.getD_eq_getElem?_getD]
  cases hk : c.others[k]? with
  | none => simp
  | some o => exact List.mem_cons_of_mem _ (List.mem_of_getElem? hk)

/-! ## Code addresses -/

/-- If the search ends at a used number, it has met only used ones. -/
theorem unusedFrom_mem {used : List Word} {n : Nat} (h : unusedFrom used n ∈ used) :
    ∀ k ≤ n, BitVec.ofNat 64 k ∈ used := by
  induction n with
  | zero => intro k hk; obtain rfl : k = 0 := by omega
            exact h
  | succ n ih =>
    unfold unusedFrom at h
    split at h
    · intro k hk
      by_cases hkn : k = n + 1
      · subst hkn; assumption
      · exact ih h k (by omega)
    · contradiction

/-- A fresh address is none of those used. -/
theorem freshAddr_not_mem {used : List Word} (want : Word) (hl : used.length < 2 ^ 64) : freshAddr used want ∉ used := by
  unfold freshAddr
  split
  · intro h
    have hnd : ((List.range (used.length + 1)).map fun k => BitVec.ofNat 64 k).Nodup := by
      rw [List.Nodup, List.pairwise_map]
      refine List.Pairwise.imp_of_mem ?_ List.nodup_range
      intro a b ha hb hab e
      have ha := List.mem_range.1 ha
      have hb := List.mem_range.1 hb
      have := congrArg BitVec.toNat e
      simp only [BitVec.toNat_ofNat] at this
      rw [Nat.mod_eq_of_lt (by omega), Nat.mod_eq_of_lt (by omega)] at this
      exact hab this
    have hsub : ((List.range (used.length + 1)).map fun k => BitVec.ofNat 64 k) ⊆ used := by
      intro x hx
      obtain ⟨k, hk, rfl⟩ := List.mem_map.1 hx
      exact unusedFrom_mem h k (by have := List.mem_range.1 hk; omega)
    have := hnd.length_le_of_subset hsub
    simp only [List.length_map, List.length_range] at this
    omega
  · assumption

@[simp] theorem codeAddrs_length (cfg : Config) (n : Nat) : (codeAddrs cfg n).length = n := by
  induction n with
  | zero => rfl
  | succ n ih => simp [codeAddrs, ih]

/-- The address of each slot is in the list of those below any higher slot. -/
theorem mem_codeAddrs (cfg : Config) {i n : Nat} (h : i < n) :
    freshAddr (codeAddrs cfg i) (wantedCodeAddr cfg i) ∈ codeAddrs cfg n := by
  induction n with
  | zero => omega
  | succ n ih =>
    rw [codeAddrs]
    by_cases e : i = n
    · subst e; exact List.mem_cons_self
    · exact List.mem_cons_of_mem _ (ih (by omega))

end Sys2Proof.Machine
end

