-- ==== Sys2Proof/Laws/PerInstr.lean ====
section
/-! SUPPORT. Per instruction: the fields the encoder writes are read back as the instruction (spec/30_encoding.md R96,
R108). -/

namespace Sys2Proof.Laws

theorem regOf_regBits (r : Reg) : regOf (regBits r) = .ok r := by
  have h : (regBits r).toNat = r.val := by simp [regBits]; omega
  simp only [regOf, h]
  exact dif_pos r.isLt

theorem wregOf_regBits (d : WReg) : wregOf (regBits d) = .ok d := by
  have h : (regBits d).toNat = d.val := by simp [regBits]; omega
  simp only [wregOf, h]
  exact dif_pos d.isLt

theorem unused_zero {n : Nat} : unused (0 : BitVec n) = .ok () := by simp [unused]

theorem decodeFields_of {lcf : LocalCallField} {f : Fields} {next : Option Fields} {form : Form}
    (h : opcodeRows.lookup f.opcode = some form) : decodeFields lcf f next = decodeForm lcf f next form := by
  simp [decodeFields, h]

/-- The fields of an instruction, with those of its second slot where it has one, decode to it. -/
def FieldsRoundTrip.Statement (i : Instr) : Prop :=
  ∀ (lcf : LocalCallField) (next : Option Fields), i.unusedFieldsZero lcf = true →
    (∀ g, i.nextFields = some g → next = some g) → decodeFields lcf i.fields next = .ok i

theorem FieldsRoundTrip.add64Imm (dst : WReg) (imm : Imm) : FieldsRoundTrip.Statement (.add64Imm dst imm) := by
  intro lcf next _ _
  rw [decodeFields_of (form := .dstImm .add64Imm) rfl]
  simp only [decodeForm, Instr.fields, wregOf_regBits, unused_zero]
  rfl

theorem FieldsRoundTrip.add64Reg (dst : WReg) (src : Reg) : FieldsRoundTrip.Statement (.add64Reg dst src) := by
  intro lcf next _ _
  rw [decodeFields_of (form := .dstSrc .add64Reg) rfl]
  simp only [decodeForm, Instr.fields, wregOf_regBits, regOf_regBits, unused_zero]
  rfl

theorem FieldsRoundTrip.sub64Imm (dst : WReg) (imm : Imm) : FieldsRoundTrip.Statement (.sub64Imm dst imm) := by
  intro lcf next _ _
  rw [decodeFields_of (form := .dstImm .sub64Imm) rfl]
  simp only [decodeForm, Instr.fields, wregOf_regBits, unused_zero]
  rfl

theorem FieldsRoundTrip.sub64Reg (dst : WReg) (src : Reg) : FieldsRoundTrip.Statement (.sub64Reg dst src) := by
  intro lcf next _ _
  rw [decodeFields_of (form := .dstSrc .sub64Reg) rfl]
  simp only [decodeForm, Instr.fields, wregOf_regBits, regOf_regBits, unused_zero]
  rfl

theorem FieldsRoundTrip.mul64Imm (dst : WReg) (imm : Imm) : FieldsRoundTrip.Statement (.mul64Imm dst imm) := by
  intro lcf next _ _
  rw [decodeFields_of (form := .dstImm .mul64Imm) rfl]
  simp only [decodeForm, Instr.fields, wregOf_regBits, unused_zero]
  rfl

theorem FieldsRoundTrip.mul64Reg (dst : WReg) (src : Reg) : FieldsRoundTrip.Statement (.mul64Reg dst src) := by
  intro lcf next _ _
  rw [decodeFields_of (form := .dstSrc .mul64Reg) rfl]
  simp only [decodeForm, Instr.fields, wregOf_regBits, regOf_regBits, unused_zero]
  rfl

theorem FieldsRoundTrip.div64Imm (dst : WReg) (imm : Imm) : FieldsRoundTrip.Statement (.div64Imm dst imm) := by
  intro lcf next _ _
  rw [decodeFields_of (form := .dstImm .div64Imm) rfl]
  simp only [decodeForm, Instr.fields, wregOf_regBits, unused_zero]
  rfl

theorem FieldsRoundTrip.div64Reg (dst : WReg) (src : Reg) : FieldsRoundTrip.Statement (.div64Reg dst src) := by
  intro lcf next _ _
  rw [decodeFields_of (form := .dstSrc .div64Reg) rfl]
  simp only [decodeForm, Instr.fields, wregOf_regBits, regOf_regBits, unused_zero]
  rfl

theorem FieldsRoundTrip.or64Imm (dst : WReg) (imm : Imm) : FieldsRoundTrip.Statement (.or64Imm dst imm) := by
  intro lcf next _ _
  rw [decodeFields_of (form := .dstImm .or64Imm) rfl]
  simp only [decodeForm, Instr.fields, wregOf_regBits, unused_zero]
  rfl

theorem FieldsRoundTrip.or64Reg (dst : WReg) (src : Reg) : FieldsRoundTrip.Statement (.or64Reg dst src) := by
  intro lcf next _ _
  rw [decodeFields_of (form := .dstSrc .or64Reg) rfl]
  simp only [decodeForm, Instr.fields, wregOf_regBits, regOf_regBits, unused_zero]
  rfl

theorem FieldsRoundTrip.and64Imm (dst : WReg) (imm : Imm) : FieldsRoundTrip.Statement (.and64Imm dst imm) := by
  intro lcf next _ _
  rw [decodeFields_of (form := .dstImm .and64Imm) rfl]
  simp only [decodeForm, Instr.fields, wregOf_regBits, unused_zero]
  rfl

theorem FieldsRoundTrip.and64Reg (dst : WReg) (src : Reg) : FieldsRoundTrip.Statement (.and64Reg dst src) := by
  intro lcf next _ _
  rw [decodeFields_of (form := .dstSrc .and64Reg) rfl]
  simp only [decodeForm, Instr.fields, wregOf_regBits, regOf_regBits, unused_zero]
  rfl

theorem FieldsRoundTrip.lsh64Imm (dst : WReg) (imm : Imm) : FieldsRoundTrip.Statement (.lsh64Imm dst imm) := by
  intro lcf next _ _
  rw [decodeFields_of (form := .dstImm .lsh64Imm) rfl]
  simp only [decodeForm, Instr.fields, wregOf_regBits, unused_zero]
  rfl

theorem FieldsRoundTrip.lsh64Reg (dst : WReg) (src : Reg) : FieldsRoundTrip.Statement (.lsh64Reg dst src) := by
  intro lcf next _ _
  rw [decodeFields_of (form := .dstSrc .lsh64Reg) rfl]
  simp only [decodeForm, Instr.fields, wregOf_regBits, regOf_regBits, unused_zero]
  rfl

theorem FieldsRoundTrip.rsh64Imm (dst : WReg) (imm : Imm) : FieldsRoundTrip.Statement (.rsh64Imm dst imm) := by
  intro lcf next _ _
  rw [decodeFields_of (form := .dstImm .rsh64Imm) rfl]
  simp only [decodeForm, Instr.fields, wregOf_regBits, unused_zero]
  rfl

theorem FieldsRoundTrip.rsh64Reg (dst : WReg) (src : Reg) : FieldsRoundTrip.Statement (.rsh64Reg dst src) := by
  intro lcf next _ _
  rw [decodeFields_of (form := .dstSrc .rsh64Reg) rfl]
  simp only [decodeForm, Instr.fields, wregOf_regBits, regOf_regBits, unused_zero]
  rfl

theorem FieldsRoundTrip.neg64 (dst : WReg) : FieldsRoundTrip.Statement (.neg64 dst) := by
  intro lcf next _ _
  rw [decodeFields_of (form := .dstOnly .neg64) rfl]
  simp only [decodeForm, Instr.fields, wregOf_regBits, unused_zero]
  rfl

theorem FieldsRoundTrip.mod64Imm (dst : WReg) (imm : Imm) : FieldsRoundTrip.Statement (.mod64Imm dst imm) := by
  intro lcf next _ _
  rw [decodeFields_of (form := .dstImm .mod64Imm) rfl]
  simp only [decodeForm, Instr.fields, wregOf_regBits, unused_zero]
  rfl

theorem FieldsRoundTrip.mod64Reg (dst : WReg) (src : Reg) : FieldsRoundTrip.Statement (.mod64Reg dst src) := by
  intro lcf next _ _
  rw [decodeFields_of (form := .dstSrc .mod64Reg) rfl]
  simp only [decodeForm, Instr.fields, wregOf_regBits, regOf_regBits, unused_zero]
  rfl

theorem FieldsRoundTrip.xor64Imm (dst : WReg) (imm : Imm) : FieldsRoundTrip.Statement (.xor64Imm dst imm) := by
  intro lcf next _ _
  rw [decodeFields_of (form := .dstImm .xor64Imm) rfl]
  simp only [decodeForm, Instr.fields, wregOf_regBits, unused_zero]
  rfl

theorem FieldsRoundTrip.xor64Reg (dst : WReg) (src : Reg) : FieldsRoundTrip.Statement (.xor64Reg dst src) := by
  intro lcf next _ _
  rw [decodeFields_of (form := .dstSrc .xor64Reg) rfl]
  simp only [decodeForm, Instr.fields, wregOf_regBits, regOf_regBits, unused_zero]
  rfl

theorem FieldsRoundTrip.mov64Imm (dst : WReg) (imm : Imm) : FieldsRoundTrip.Statement (.mov64Imm dst imm) := by
  intro lcf next _ _
  rw [decodeFields_of (form := .dstImm .mov64Imm) rfl]
  simp only [decodeForm, Instr.fields, wregOf_regBits, unused_zero]
  rfl

theorem FieldsRoundTrip.mov64Reg (dst : WReg) (src : Reg) : FieldsRoundTrip.Statement (.mov64Reg dst src) := by
  intro lcf next _ _
  rw [decodeFields_of (form := .dstSrc .mov64Reg) rfl]
  simp only [decodeForm, Instr.fields, wregOf_regBits, regOf_regBits, unused_zero]
  rfl

theorem FieldsRoundTrip.arsh64Imm (dst : WReg) (imm : Imm) : FieldsRoundTrip.Statement (.arsh64Imm dst imm) := by
  intro lcf next _ _
  rw [decodeFields_of (form := .dstImm .arsh64Imm) rfl]
  simp only [decodeForm, Instr.fields, wregOf_regBits, unused_zero]
  rfl

theorem FieldsRoundTrip.arsh64Reg (dst : WReg) (src : Reg) : FieldsRoundTrip.Statement (.arsh64Reg dst src) := by
  intro lcf next _ _
  rw [decodeFields_of (form := .dstSrc .arsh64Reg) rfl]
  simp only [decodeForm, Instr.fields, wregOf_regBits, regOf_regBits, unused_zero]
  rfl

theorem FieldsRoundTrip.add32Imm (dst : WReg) (imm : Imm) : FieldsRoundTrip.Statement (.add32Imm dst imm) := by
  intro lcf next _ _
  rw [decodeFields_of (form := .dstImm .add32Imm) rfl]
  simp only [decodeForm, Instr.fields, wregOf_regBits, unused_zero]
  rfl

theorem FieldsRoundTrip.add32Reg (dst : WReg) (src : Reg) : FieldsRoundTrip.Statement (.add32Reg dst src) := by
  intro lcf next _ _
  rw [decodeFields_of (form := .dstSrc .add32Reg) rfl]
  simp only [decodeForm, Instr.fields, wregOf_regBits, regOf_regBits, unused_zero]
  rfl

theorem FieldsRoundTrip.sub32Imm (dst : WReg) (imm : Imm) : FieldsRoundTrip.Statement (.sub32Imm dst imm) := by
  intro lcf next _ _
  rw [decodeFields_of (form := .dstImm .sub32Imm) rfl]
  simp only [decodeForm, Instr.fields, wregOf_regBits, unused_zero]
  rfl

theorem FieldsRoundTrip.sub32Reg (dst : WReg) (src : Reg) : FieldsRoundTrip.Statement (.sub32Reg dst src) := by
  intro lcf next _ _
  rw [decodeFields_of (form := .dstSrc .sub32Reg) rfl]
  simp only [decodeForm, Instr.fields, wregOf_regBits, regOf_regBits, unused_zero]
  rfl

theorem FieldsRoundTrip.mul32Imm (dst : WReg) (imm : Imm) : FieldsRoundTrip.Statement (.mul32Imm dst imm) := by
  intro lcf next _ _
  rw [decodeFields_of (form := .dstImm .mul32Imm) rfl]
  simp only [decodeForm, Instr.fields, wregOf_regBits, unused_zero]
  rfl

theorem FieldsRoundTrip.mul32Reg (dst : WReg) (src : Reg) : FieldsRoundTrip.Statement (.mul32Reg dst src) := by
  intro lcf next _ _
  rw [decodeFields_of (form := .dstSrc .mul32Reg) rfl]
  simp only [decodeForm, Instr.fields, wregOf_regBits, regOf_regBits, unused_zero]
  rfl

theorem FieldsRoundTrip.div32Imm (dst : WReg) (imm : Imm) : FieldsRoundTrip.Statement (.div32Imm dst imm) := by
  intro lcf next _ _
  rw [decodeFields_of (form := .dstImm .div32Imm) rfl]
  simp only [decodeForm, Instr.fields, wregOf_regBits, unused_zero]
  rfl

theorem FieldsRoundTrip.div32Reg (dst : WReg) (src : Reg) : FieldsRoundTrip.Statement (.div32Reg dst src) := by
  intro lcf next _ _
  rw [decodeFields_of (form := .dstSrc .div32Reg) rfl]
  simp only [decodeForm, Instr.fields, wregOf_regBits, regOf_regBits, unused_zero]
  rfl

theorem FieldsRoundTrip.or32Imm (dst : WReg) (imm : Imm) : FieldsRoundTrip.Statement (.or32Imm dst imm) := by
  intro lcf next _ _
  rw [decodeFields_of (form := .dstImm .or32Imm) rfl]
  simp only [decodeForm, Instr.fields, wregOf_regBits, unused_zero]
  rfl

theorem FieldsRoundTrip.or32Reg (dst : WReg) (src : Reg) : FieldsRoundTrip.Statement (.or32Reg dst src) := by
  intro lcf next _ _
  rw [decodeFields_of (form := .dstSrc .or32Reg) rfl]
  simp only [decodeForm, Instr.fields, wregOf_regBits, regOf_regBits, unused_zero]
  rfl

theorem FieldsRoundTrip.and32Imm (dst : WReg) (imm : Imm) : FieldsRoundTrip.Statement (.and32Imm dst imm) := by
  intro lcf next _ _
  rw [decodeFields_of (form := .dstImm .and32Imm) rfl]
  simp only [decodeForm, Instr.fields, wregOf_regBits, unused_zero]
  rfl

theorem FieldsRoundTrip.and32Reg (dst : WReg) (src : Reg) : FieldsRoundTrip.Statement (.and32Reg dst src) := by
  intro lcf next _ _
  rw [decodeFields_of (form := .dstSrc .and32Reg) rfl]
  simp only [decodeForm, Instr.fields, wregOf_regBits, regOf_regBits, unused_zero]
  rfl

theorem FieldsRoundTrip.lsh32Imm (dst : WReg) (imm : Imm) : FieldsRoundTrip.Statement (.lsh32Imm dst imm) := by
  intro lcf next _ _
  rw [decodeFields_of (form := .dstImm .lsh32Imm) rfl]
  simp only [decodeForm, Instr.fields, wregOf_regBits, unused_zero]
  rfl

theorem FieldsRoundTrip.lsh32Reg (dst : WReg) (src : Reg) : FieldsRoundTrip.Statement (.lsh32Reg dst src) := by
  intro lcf next _ _
  rw [decodeFields_of (form := .dstSrc .lsh32Reg) rfl]
  simp only [decodeForm, Instr.fields, wregOf_regBits, regOf_regBits, unused_zero]
  rfl

theorem FieldsRoundTrip.rsh32Imm (dst : WReg) (imm : Imm) : FieldsRoundTrip.Statement (.rsh32Imm dst imm) := by
  intro lcf next _ _
  rw [decodeFields_of (form := .dstImm .rsh32Imm) rfl]
  simp only [decodeForm, Instr.fields, wregOf_regBits, unused_zero]
  rfl

theorem FieldsRoundTrip.rsh32Reg (dst : WReg) (src : Reg) : FieldsRoundTrip.Statement (.rsh32Reg dst src) := by
  intro lcf next _ _
  rw [decodeFields_of (form := .dstSrc .rsh32Reg) rfl]
  simp only [decodeForm, Instr.fields, wregOf_regBits, regOf_regBits, unused_zero]
  rfl

theorem FieldsRoundTrip.neg32 (dst : WReg) : FieldsRoundTrip.Statement (.neg32 dst) := by
  intro lcf next _ _
  rw [decodeFields_of (form := .dstOnly .neg32) rfl]
  simp only [decodeForm, Instr.fields, wregOf_regBits, unused_zero]
  rfl

theorem FieldsRoundTrip.mod32Imm (dst : WReg) (imm : Imm) : FieldsRoundTrip.Statement (.mod32Imm dst imm) := by
  intro lcf next _ _
  rw [decodeFields_of (form := .dstImm .mod32Imm) rfl]
  simp only [decodeForm, Instr.fields, wregOf_regBits, unused_zero]
  rfl

theorem FieldsRoundTrip.mod32Reg (dst : WReg) (src : Reg) : FieldsRoundTrip.Statement (.mod32Reg dst src) := by
  intro lcf next _ _
  rw [decodeFields_of (form := .dstSrc .mod32Reg) rfl]
  simp only [decodeForm, Instr.fields, wregOf_regBits, regOf_regBits, unused_zero]
  rfl

theorem FieldsRoundTrip.xor32Imm (dst : WReg) (imm : Imm) : FieldsRoundTrip.Statement (.xor32Imm dst imm) := by
  intro lcf next _ _
  rw [decodeFields_of (form := .dstImm .xor32Imm) rfl]
  simp only [decodeForm, Instr.fields, wregOf_regBits, unused_zero]
  rfl

theorem FieldsRoundTrip.xor32Reg (dst : WReg) (src : Reg) : FieldsRoundTrip.Statement (.xor32Reg dst src) := by
  intro lcf next _ _
  rw [decodeFields_of (form := .dstSrc .xor32Reg) rfl]
  simp only [decodeForm, Instr.fields, wregOf_regBits, regOf_regBits, unused_zero]
  rfl

theorem FieldsRoundTrip.mov32Imm (dst : WReg) (imm : Imm) : FieldsRoundTrip.Statement (.mov32Imm dst imm) := by
  intro lcf next _ _
  rw [decodeFields_of (form := .dstImm .mov32Imm) rfl]
  simp only [decodeForm, Instr.fields, wregOf_regBits, unused_zero]
  rfl

theorem FieldsRoundTrip.mov32Reg (dst : WReg) (src : Reg) : FieldsRoundTrip.Statement (.mov32Reg dst src) := by
  intro lcf next _ _
  rw [decodeFields_of (form := .dstSrc .mov32Reg) rfl]
  simp only [decodeForm, Instr.fields, wregOf_regBits, regOf_regBits, unused_zero]
  rfl

theorem FieldsRoundTrip.arsh32Imm (dst : WReg) (imm : Imm) : FieldsRoundTrip.Statement (.arsh32Imm dst imm) := by
  intro lcf next _ _
  rw [decodeFields_of (form := .dstImm .arsh32Imm) rfl]
  simp only [decodeForm, Instr.fields, wregOf_regBits, unused_zero]
  rfl

theorem FieldsRoundTrip.arsh32Reg (dst : WReg) (src : Reg) : FieldsRoundTrip.Statement (.arsh32Reg dst src) := by
  intro lcf next _ _
  rw [decodeFields_of (form := .dstSrc .arsh32Reg) rfl]
  simp only [decodeForm, Instr.fields, wregOf_regBits, regOf_regBits, unused_zero]
  rfl

theorem FieldsRoundTrip.le16 (dst : WReg) : FieldsRoundTrip.Statement (.le16 dst) := by
  intro lcf next _ _
  rw [decodeFields_of (form := .swap leRows) rfl]
  simp only [decodeForm, Instr.fields, unused_zero, wregOf_regBits]
  rfl

theorem FieldsRoundTrip.le32 (dst : WReg) : FieldsRoundTrip.Statement (.le32 dst) := by
  intro lcf next _ _
  rw [decodeFields_of (form := .swap leRows) rfl]
  simp only [decodeForm, Instr.fields, unused_zero, wregOf_regBits]
  rfl

theorem FieldsRoundTrip.le64 (dst : WReg) : FieldsRoundTrip.Statement (.le64 dst) := by
  intro lcf next _ _
  rw [decodeFields_of (form := .swap leRows) rfl]
  simp only [decodeForm, Instr.fields, unused_zero, wregOf_regBits]
  rfl

theorem FieldsRoundTrip.be16 (dst : WReg) : FieldsRoundTrip.Statement (.be16 dst) := by
  intro lcf next _ _
  rw [decodeFields_of (form := .swap beRows) rfl]
  simp only [decodeForm, Instr.fields, unused_zero, wregOf_regBits]
  rfl

theorem FieldsRoundTrip.be32 (dst : WReg) : FieldsRoundTrip.Statement (.be32 dst) := by
  intro lcf next _ _
  rw [decodeFields_of (form := .swap beRows) rfl]
  simp only [decodeForm, Instr.fields, unused_zero, wregOf_regBits]
  rfl

theorem FieldsRoundTrip.be64 (dst : WReg) : FieldsRoundTrip.Statement (.be64 dst) := by
  intro lcf next _ _
  rw [decodeFields_of (form := .swap beRows) rfl]
  simp only [decodeForm, Instr.fields, unused_zero, wregOf_regBits]
  rfl

theorem FieldsRoundTrip.ja (off : Off) : FieldsRoundTrip.Statement (.ja off) := by
  intro lcf next _ _
  rw [decodeFields_of (form := .offOnly .ja) rfl]
  simp only [decodeForm, Instr.fields, unused_zero]
  rfl

theorem FieldsRoundTrip.jeqImm (dst : Reg) (imm : Imm) (off : Off) : FieldsRoundTrip.Statement (.jeqImm dst imm off) := by
  intro lcf next _ _
  rw [decodeFields_of (form := .cmpImm .jeqImm) rfl]
  simp only [decodeForm, Instr.fields, regOf_regBits, unused_zero]
  rfl

theorem FieldsRoundTrip.jeqReg (dst : Reg) (src : Reg) (off : Off) : FieldsRoundTrip.Statement (.jeqReg dst src off) := by
  intro lcf next _ _
  rw [decodeFields_of (form := .cmpReg .jeqReg) rfl]
  simp only [decodeForm, Instr.fields, regOf_regBits, unused_zero]
  rfl

theorem FieldsRoundTrip.jgtImm (dst : Reg) (imm : Imm) (off : Off) : FieldsRoundTrip.Statement (.jgtImm dst imm off) := by
  intro lcf next _ _
  rw [decodeFields_of (form := .cmpImm .jgtImm) rfl]
  simp only [decodeForm, Instr.fields, regOf_regBits, unused_zero]
  rfl

theorem FieldsRoundTrip.jgtReg (dst : Reg) (src : Reg) (off : Off) : FieldsRoundTrip.Statement (.jgtReg dst src off) := by
  intro lcf next _ _
  rw [decodeFields_of (form := .cmpReg .jgtReg) rfl]
  simp only [decodeForm, Instr.fields, regOf_regBits, unused_zero]
  rfl

theorem FieldsRoundTrip.jgeImm (dst : Reg) (imm : Imm) (off : Off) : FieldsRoundTrip.Statement (.jgeImm dst imm off) := by
  intro lcf next _ _
  rw [decodeFields_of (form := .cmpImm .jgeImm) rfl]
  simp only [decodeForm, Instr.fields, regOf_regBits, unused_zero]
  rfl

theorem FieldsRoundTrip.jgeReg (dst : Reg) (src : Reg) (off : Off) : FieldsRoundTrip.Statement (.jgeReg dst src off) := by
  intro lcf next _ _
  rw [decodeFields_of (form := .cmpReg .jgeReg) rfl]
  simp only [decodeForm, Instr.fields, regOf_regBits, unused_zero]
  rfl

theorem FieldsRoundTrip.jsetImm (dst : Reg) (imm : Imm) (off : Off) : FieldsRoundTrip.Statement (.jsetImm dst imm off) := by
  intro lcf next _ _
  rw [decodeFields_of (form := .cmpImm .jsetImm) rfl]
  simp only [decodeForm, Instr.fields, regOf_regBits, unused_zero]
  rfl

theorem FieldsRoundTrip.jsetReg (dst : Reg) (src : Reg) (off : Off) : FieldsRoundTrip.Statement (.jsetReg dst src off) := by
  intro lcf next _ _
  rw [decodeFields_of (form := .cmpReg .jsetReg) rfl]
  simp only [decodeForm, Instr.fields, regOf_regBits, unused_zero]
  rfl

theorem FieldsRoundTrip.jneImm (dst : Reg) (imm : Imm) (off : Off) : FieldsRoundTrip.Statement (.jneImm dst imm off) := by
  intro lcf next _ _
  rw [decodeFields_of (form := .cmpImm .jneImm) rfl]
  simp only [decodeForm, Instr.fields, regOf_regBits, unused_zero]
  rfl

theorem FieldsRoundTrip.jneReg (dst : Reg) (src : Reg) (off : Off) : FieldsRoundTrip.Statement (.jneReg dst src off) := by
  intro lcf next _ _
  rw [decodeFields_of (form := .cmpReg .jneReg) rfl]
  simp only [decodeForm, Instr.fields, regOf_regBits, unused_zero]
  rfl

theorem FieldsRoundTrip.jsgtImm (dst : Reg) (imm : Imm) (off : Off) : FieldsRoundTrip.Statement (.jsgtImm dst imm off) := by
  intro lcf next _ _
  rw [decodeFields_of (form := .cmpImm .jsgtImm) rfl]
  simp only [decodeForm, Instr.fields, regOf_regBits, unused_zero]
  rfl

theorem FieldsRoundTrip.jsgtReg (dst : Reg) (src : Reg) (off : Off) : FieldsRoundTrip.Statement (.jsgtReg dst src off) := by
  intro lcf next _ _
  rw [decodeFields_of (form := .cmpReg .jsgtReg) rfl]
  simp only [decodeForm, Instr.fields, regOf_regBits, unused_zero]
  rfl

theorem FieldsRoundTrip.jsgeImm (dst : Reg) (imm : Imm) (off : Off) : FieldsRoundTrip.Statement (.jsgeImm dst imm off) := by
  intro lcf next _ _
  rw [decodeFields_of (form := .cmpImm .jsgeImm) rfl]
  simp only [decodeForm, Instr.fields, regOf_regBits, unused_zero]
  rfl

theorem FieldsRoundTrip.jsgeReg (dst : Reg) (src : Reg) (off : Off) : FieldsRoundTrip.Statement (.jsgeReg dst src off) := by
  intro lcf next _ _
  rw [decodeFields_of (form := .cmpReg .jsgeReg) rfl]
  simp only [decodeForm, Instr.fields, regOf_regBits, unused_zero]
  rfl

theorem FieldsRoundTrip.jltImm (dst : Reg) (imm : Imm) (off : Off) : FieldsRoundTrip.Statement (.jltImm dst imm off) := by
  intro lcf next _ _
  rw [decodeFields_of (form := .cmpImm .jltImm) rfl]
  simp only [decodeForm, Instr.fields, regOf_regBits, unused_zero]
  rfl

theorem FieldsRoundTrip.jltReg (dst : Reg) (src : Reg) (off : Off) : FieldsRoundTrip.Statement (.jltReg dst src off) := by
  intro lcf next _ _
  rw [decodeFields_of (form := .cmpReg .jltReg) rfl]
  simp only [decodeForm, Instr.fields, regOf_regBits, unused_zero]
  rfl

theorem FieldsRoundTrip.jleImm (dst : Reg) (imm : Imm) (off : Off) : FieldsRoundTrip.Statement (.jleImm dst imm off) := by
  intro lcf next _ _
  rw [decodeFields_of (form := .cmpImm .jleImm) rfl]
  simp only [decodeForm, Instr.fields, regOf_regBits, unused_zero]
  rfl

theorem FieldsRoundTrip.jleReg (dst : Reg) (src : Reg) (off : Off) : FieldsRoundTrip.Statement (.jleReg dst src off) := by
  intro lcf next _ _
  rw [decodeFields_of (form := .cmpReg .jleReg) rfl]
  simp only [decodeForm, Instr.fields, regOf_regBits, unused_zero]
  rfl

theorem FieldsRoundTrip.jsltImm (dst : Reg) (imm : Imm) (off : Off) : FieldsRoundTrip.Statement (.jsltImm dst imm off) := by
  intro lcf next _ _
  rw [decodeFields_of (form := .cmpImm .jsltImm) rfl]
  simp only [decodeForm, Instr.fields, regOf_regBits, unused_zero]
  rfl

theorem FieldsRoundTrip.jsltReg (dst : Reg) (src : Reg) (off : Off) : FieldsRoundTrip.Statement (.jsltReg dst src off) := by
  intro lcf next _ _
  rw [decodeFields_of (form := .cmpReg .jsltReg) rfl]
  simp only [decodeForm, Instr.fields, regOf_regBits, unused_zero]
  rfl

theorem FieldsRoundTrip.jsleImm (dst : Reg) (imm : Imm) (off : Off) : FieldsRoundTrip.Statement (.jsleImm dst imm off) := by
  intro lcf next _ _
  rw [decodeFields_of (form := .cmpImm .jsleImm) rfl]
  simp only [decodeForm, Instr.fields, regOf_regBits, unused_zero]
  rfl

theorem FieldsRoundTrip.jsleReg (dst : Reg) (src : Reg) (off : Off) : FieldsRoundTrip.Statement (.jsleReg dst src off) := by
  intro lcf next _ _
  rw [decodeFields_of (form := .cmpReg .jsleReg) rfl]
  simp only [decodeForm, Instr.fields, regOf_regBits, unused_zero]
  rfl

theorem FieldsRoundTrip.jeq32Imm (dst : Reg) (imm : Imm) (off : Off) : FieldsRoundTrip.Statement (.jeq32Imm dst imm off) := by
  intro lcf next _ _
  rw [decodeFields_of (form := .cmpImm .jeq32Imm) rfl]
  simp only [decodeForm, Instr.fields, regOf_regBits, unused_zero]
  rfl

theorem FieldsRoundTrip.jeq32Reg (dst : Reg) (src : Reg) (off : Off) : FieldsRoundTrip.Statement (.jeq32Reg dst src off) := by
  intro lcf next _ _
  rw [decodeFields_of (form := .cmpReg .jeq32Reg) rfl]
  simp only [decodeForm, Instr.fields, regOf_regBits, unused_zero]
  rfl

theorem FieldsRoundTrip.jgt32Imm (dst : Reg) (imm : Imm) (off : Off) : FieldsRoundTrip.Statement (.jgt32Imm dst imm off) := by
  intro lcf next _ _
  rw [decodeFields_of (form := .cmpImm .jgt32Imm) rfl]
  simp only [decodeForm, Instr.fields, regOf_regBits, unused_zero]
  rfl

theorem FieldsRoundTrip.jgt32Reg (dst : Reg) (src : Reg) (off : Off) : FieldsRoundTrip.Statement (.jgt32Reg dst src off) := by
  intro lcf next _ _
  rw [decodeFields_of (form := .cmpReg .jgt32Reg) rfl]
  simp only [decodeForm, Instr.fields, regOf_regBits, unused_zero]
  rfl

theorem FieldsRoundTrip.jge32Imm (dst : Reg) (imm : Imm) (off : Off) : FieldsRoundTrip.Statement (.jge32Imm dst imm off) := by
  intro lcf next _ _
  rw [decodeFields_of (form := .cmpImm .jge32Imm) rfl]
  simp only [decodeForm, Instr.fields, regOf_regBits, unused_zero]
  rfl

theorem FieldsRoundTrip.jge32Reg (dst : Reg) (src : Reg) (off : Off) : FieldsRoundTrip.Statement (.jge32Reg dst src off) := by
  intro lcf next _ _
  rw [decodeFields_of (form := .cmpReg .jge32Reg) rfl]
  simp only [decodeForm, Instr.fields, regOf_regBits, unused_zero]
  rfl

theorem FieldsRoundTrip.jset32Imm (dst : Reg) (imm : Imm) (off : Off) : FieldsRoundTrip.Statement (.jset32Imm dst imm off) := by
  intro lcf next _ _
  rw [decodeFields_of (form := .cmpImm .jset32Imm) rfl]
  simp only [decodeForm, Instr.fields, regOf_regBits, unused_zero]
  rfl

theorem FieldsRoundTrip.jset32Reg (dst : Reg) (src : Reg) (off : Off) : FieldsRoundTrip.Statement (.jset32Reg dst src off) := by
  intro lcf next _ _
  rw [decodeFields_of (form := .cmpReg .jset32Reg) rfl]
  simp only [decodeForm, Instr.fields, regOf_regBits, unused_zero]
  rfl

theorem FieldsRoundTrip.jne32Imm (dst : Reg) (imm : Imm) (off : Off) : FieldsRoundTrip.Statement (.jne32Imm dst imm off) := by
  intro lcf next _ _
  rw [decodeFields_of (form := .cmpImm .jne32Imm) rfl]
  simp only [decodeForm, Instr.fields, regOf_regBits, unused_zero]
  rfl

theorem FieldsRoundTrip.jne32Reg (dst : Reg) (src : Reg) (off : Off) : FieldsRoundTrip.Statement (.jne32Reg dst src off) := by
  intro lcf next _ _
  rw [decodeFields_of (form := .cmpReg .jne32Reg) rfl]
  simp only [decodeForm, Instr.fields, regOf_regBits, unused_zero]
  rfl

theorem FieldsRoundTrip.jsgt32Imm (dst : Reg) (imm : Imm) (off : Off) : FieldsRoundTrip.Statement (.jsgt32Imm dst imm off) := by
  intro lcf next _ _
  rw [decodeFields_of (form := .cmpImm .jsgt32Imm) rfl]
  simp only [decodeForm, Instr.fields, regOf_regBits, unused_zero]
  rfl

theorem FieldsRoundTrip.jsgt32Reg (dst : Reg) (src : Reg) (off : Off) : FieldsRoundTrip.Statement (.jsgt32Reg dst src off) := by
  intro lcf next _ _
  rw [decodeFields_of (form := .cmpReg .jsgt32Reg) rfl]
  simp only [decodeForm, Instr.fields, regOf_regBits, unused_zero]
  rfl

theorem FieldsRoundTrip.jsge32Imm (dst : Reg) (imm : Imm) (off : Off) : FieldsRoundTrip.Statement (.jsge32Imm dst imm off) := by
  intro lcf next _ _
  rw [decodeFields_of (form := .cmpImm .jsge32Imm) rfl]
  simp only [decodeForm, Instr.fields, regOf_regBits, unused_zero]
  rfl

theorem FieldsRoundTrip.jsge32Reg (dst : Reg) (src : Reg) (off : Off) : FieldsRoundTrip.Statement (.jsge32Reg dst src off) := by
  intro lcf next _ _
  rw [decodeFields_of (form := .cmpReg .jsge32Reg) rfl]
  simp only [decodeForm, Instr.fields, regOf_regBits, unused_zero]
  rfl

theorem FieldsRoundTrip.jlt32Imm (dst : Reg) (imm : Imm) (off : Off) : FieldsRoundTrip.Statement (.jlt32Imm dst imm off) := by
  intro lcf next _ _
  rw [decodeFields_of (form := .cmpImm .jlt32Imm) rfl]
  simp only [decodeForm, Instr.fields, regOf_regBits, unused_zero]
  rfl

theorem FieldsRoundTrip.jlt32Reg (dst : Reg) (src : Reg) (off : Off) : FieldsRoundTrip.Statement (.jlt32Reg dst src off) := by
  intro lcf next _ _
  rw [decodeFields_of (form := .cmpReg .jlt32Reg) rfl]
  simp only [decodeForm, Instr.fields, regOf_regBits, unused_zero]
  rfl

theorem FieldsRoundTrip.jle32Imm (dst : Reg) (imm : Imm) (off : Off) : FieldsRoundTrip.Statement (.jle32Imm dst imm off) := by
  intro lcf next _ _
  rw [decodeFields_of (form := .cmpImm .jle32Imm) rfl]
  simp only [decodeForm, Instr.fields, regOf_regBits, unused_zero]
  rfl

theorem FieldsRoundTrip.jle32Reg (dst : Reg) (src : Reg) (off : Off) : FieldsRoundTrip.Statement (.jle32Reg dst src off) := by
  intro lcf next _ _
  rw [decodeFields_of (form := .cmpReg .jle32Reg) rfl]
  simp only [decodeForm, Instr.fields, regOf_regBits, unused_zero]
  rfl

theorem FieldsRoundTrip.jslt32Imm (dst : Reg) (imm : Imm) (off : Off) : FieldsRoundTrip.Statement (.jslt32Imm dst imm off) := by
  intro lcf next _ _
  rw [decodeFields_of (form := .cmpImm .jslt32Imm) rfl]
  simp only [decodeForm, Instr.fields, regOf_regBits, unused_zero]
  rfl

theorem FieldsRoundTrip.jslt32Reg (dst : Reg) (src : Reg) (off : Off) : FieldsRoundTrip.Statement (.jslt32Reg dst src off) := by
  intro lcf next _ _
  rw [decodeFields_of (form := .cmpReg .jslt32Reg) rfl]
  simp only [decodeForm, Instr.fields, regOf_regBits, unused_zero]
  rfl

theorem FieldsRoundTrip.jsle32Imm (dst : Reg) (imm : Imm) (off : Off) : FieldsRoundTrip.Statement (.jsle32Imm dst imm off) := by
  intro lcf next _ _
  rw [decodeFields_of (form := .cmpImm .jsle32Imm) rfl]
  simp only [decodeForm, Instr.fields, regOf_regBits, unused_zero]
  rfl

theorem FieldsRoundTrip.jsle32Reg (dst : Reg) (src : Reg) (off : Off) : FieldsRoundTrip.Statement (.jsle32Reg dst src off) := by
  intro lcf next _ _
  rw [decodeFields_of (form := .cmpReg .jsle32Reg) rfl]
  simp only [decodeForm, Instr.fields, regOf_regBits, unused_zero]
  rfl

theorem FieldsRoundTrip.callHelper (id : Imm) : FieldsRoundTrip.Statement (.callHelper id) := by
  intro lcf next _ _
  rw [decodeFields_of (form := .call) rfl]
  simp [decodeForm, decodeCall, Instr.fields, unused, bind, Except.bind, pure, Except.pure]

theorem FieldsRoundTrip.callLocal (off : Off) (imm : Imm) : FieldsRoundTrip.Statement (.callLocal off imm) := by
  intro lcf next h _
  rw [decodeFields_of (form := .call) rfl]
  cases lcf <;> simp only [Instr.unusedFieldsZero, beq_iff_eq] at h <;> subst h <;>
    simp [decodeForm, decodeCall, Instr.fields, unused, bind, Except.bind, pure, Except.pure]

theorem FieldsRoundTrip.callPlatform (id : Imm) : FieldsRoundTrip.Statement (.callPlatform id) := by
  intro lcf next _ _
  rw [decodeFields_of (form := .call) rfl]
  simp [decodeForm, decodeCall, Instr.fields, unused, bind, Except.bind, pure, Except.pure]

theorem FieldsRoundTrip.exit : FieldsRoundTrip.Statement (.exit) := by
  intro lcf next _ _
  rw [decodeFields_of (form := .bare .exit) rfl]
  rfl

theorem FieldsRoundTrip.ldxw (dst : WReg) (src : Reg) (off : Off) : FieldsRoundTrip.Statement (.ldxw dst src off) := by
  intro lcf next _ _
  rw [decodeFields_of (form := .load .ldxw) rfl]
  simp only [decodeForm, Instr.fields, wregOf_regBits, regOf_regBits, unused_zero]
  rfl

theorem FieldsRoundTrip.ldxh (dst : WReg) (src : Reg) (off : Off) : FieldsRoundTrip.Statement (.ldxh dst src off) := by
  intro lcf next _ _
  rw [decodeFields_of (form := .load .ldxh) rfl]
  simp only [decodeForm, Instr.fields, wregOf_regBits, regOf_regBits, unused_zero]
  rfl

theorem FieldsRoundTrip.ldxb (dst : WReg) (src : Reg) (off : Off) : FieldsRoundTrip.Statement (.ldxb dst src off) := by
  intro lcf next _ _
  rw [decodeFields_of (form := .load .ldxb) rfl]
  simp only [decodeForm, Instr.fields, wregOf_regBits, regOf_regBits, unused_zero]
  rfl

theorem FieldsRoundTrip.ldxdw (dst : WReg) (src : Reg) (off : Off) : FieldsRoundTrip.Statement (.ldxdw dst src off) := by
  intro lcf next _ _
  rw [decodeFields_of (form := .load .ldxdw) rfl]
  simp only [decodeForm, Instr.fields, wregOf_regBits, regOf_regBits, unused_zero]
  rfl

theorem FieldsRoundTrip.stw (dst : Reg) (off : Off) (imm : Imm) : FieldsRoundTrip.Statement (.stw dst off imm) := by
  intro lcf next _ _
  rw [decodeFields_of (form := .storeImm .stw) rfl]
  simp only [decodeForm, Instr.fields, regOf_regBits, unused_zero]
  rfl

theorem FieldsRoundTrip.sth (dst : Reg) (off : Off) (imm : Imm) : FieldsRoundTrip.Statement (.sth dst off imm) := by
  intro lcf next _ _
  rw [decodeFields_of (form := .storeImm .sth) rfl]
  simp only [decodeForm, Instr.fields, regOf_regBits, unused_zero]
  rfl

theorem FieldsRoundTrip.stb (dst : Reg) (off : Off) (imm : Imm) : FieldsRoundTrip.Statement (.stb dst off imm) := by
  intro lcf next _ _
  rw [decodeFields_of (form := .storeImm .stb) rfl]
  simp only [decodeForm, Instr.fields, regOf_regBits, unused_zero]
  rfl

theorem FieldsRoundTrip.stdw (dst : Reg) (off : Off) (imm : Imm) : FieldsRoundTrip.Statement (.stdw dst off imm) := by
  intro lcf next _ _
  rw [decodeFields_of (form := .storeImm .stdw) rfl]
  simp only [decodeForm, Instr.fields, regOf_regBits, unused_zero]
  rfl

theorem FieldsRoundTrip.stxw (dst : Reg) (off : Off) (src : Reg) : FieldsRoundTrip.Statement (.stxw dst off src) := by
  intro lcf next _ _
  rw [decodeFields_of (form := .storeReg .stxw) rfl]
  simp only [decodeForm, Instr.fields, regOf_regBits, unused_zero]
  rfl

theorem FieldsRoundTrip.stxh (dst : Reg) (off : Off) (src : Reg) : FieldsRoundTrip.Statement (.stxh dst off src) := by
  intro lcf next _ _
  rw [decodeFields_of (form := .storeReg .stxh) rfl]
  simp only [decodeForm, Instr.fields, regOf_regBits, unused_zero]
  rfl

theorem FieldsRoundTrip.stxb (dst : Reg) (off : Off) (src : Reg) : FieldsRoundTrip.Statement (.stxb dst off src) := by
  intro lcf next _ _
  rw [decodeFields_of (form := .storeReg .stxb) rfl]
  simp only [decodeForm, Instr.fields, regOf_regBits, unused_zero]
  rfl

theorem FieldsRoundTrip.stxdw (dst : Reg) (off : Off) (src : Reg) : FieldsRoundTrip.Statement (.stxdw dst off src) := by
  intro lcf next _ _
  rw [decodeFields_of (form := .storeReg .stxdw) rfl]
  simp only [decodeForm, Instr.fields, regOf_regBits, unused_zero]
  rfl

theorem FieldsRoundTrip.atomicAdd32 (dst : Reg) (off : Off) (src : Reg) : FieldsRoundTrip.Statement (.atomicAdd32 dst off src) := by
  intro lcf next _ _
  rw [decodeFields_of (form := .atomic atomic32Rows) rfl]
  have : select atomic32Rows (Instr.fields (.atomicAdd32 dst off src)).imm = .ok (.reading .atomicAdd32) := rfl
  simp only [decodeForm, this]
  simp only [Instr.fields, regOf_regBits]
  rfl

theorem FieldsRoundTrip.atomicFetchAdd32 (dst : Reg) (off : Off) (src : WReg) : FieldsRoundTrip.Statement (.atomicFetchAdd32 dst off src) := by
  intro lcf next _ _
  rw [decodeFields_of (form := .atomic atomic32Rows) rfl]
  have : select atomic32Rows (Instr.fields (.atomicFetchAdd32 dst off src)).imm = .ok (.fetching .atomicFetchAdd32) := rfl
  simp only [decodeForm, this]
  simp only [Instr.fields, regOf_regBits, wregOf_regBits]
  rfl

theorem FieldsRoundTrip.atomicOr32 (dst : Reg) (off : Off) (src : Reg) : FieldsRoundTrip.Statement (.atomicOr32 dst off src) := by
  intro lcf next _ _
  rw [decodeFields_of (form := .atomic atomic32Rows) rfl]
  have : select atomic32Rows (Instr.fields (.atomicOr32 dst off src)).imm = .ok (.reading .atomicOr32) := rfl
  simp only [decodeForm, this]
  simp only [Instr.fields, regOf_regBits]
  rfl

theorem FieldsRoundTrip.atomicFetchOr32 (dst : Reg) (off : Off) (src : WReg) : FieldsRoundTrip.Statement (.atomicFetchOr32 dst off src) := by
  intro lcf next _ _
  rw [decodeFields_of (form := .atomic atomic32Rows) rfl]
  have : select atomic32Rows (Instr.fields (.atomicFetchOr32 dst off src)).imm = .ok (.fetching .atomicFetchOr32) := rfl
  simp only [decodeForm, this]
  simp only [Instr.fields, regOf_regBits, wregOf_regBits]
  rfl

theorem FieldsRoundTrip.atomicAnd32 (dst : Reg) (off : Off) (src : Reg) : FieldsRoundTrip.Statement (.atomicAnd32 dst off src) := by
  intro lcf next _ _
  rw [decodeFields_of (form := .atomic atomic32Rows) rfl]
  have : select atomic32Rows (Instr.fields (.atomicAnd32 dst off src)).imm = .ok (.reading .atomicAnd32) := rfl
  simp only [decodeForm, this]
  simp only [Instr.fields, regOf_regBits]
  rfl

theorem FieldsRoundTrip.atomicFetchAnd32 (dst : Reg) (off : Off) (src : WReg) : FieldsRoundTrip.Statement (.atomicFetchAnd32 dst off src) := by
  intro lcf next _ _
  rw [decodeFields_of (form := .atomic atomic32Rows) rfl]
  have : select atomic32Rows (Instr.fields (.atomicFetchAnd32 dst off src)).imm = .ok (.fetching .atomicFetchAnd32) := rfl
  simp only [decodeForm, this]
  simp only [Instr.fields, regOf_regBits, wregOf_regBits]
  rfl

theorem FieldsRoundTrip.atomicXor32 (dst : Reg) (off : Off) (src : Reg) : FieldsRoundTrip.Statement (.atomicXor32 dst off src) := by
  intro lcf next _ _
  rw [decodeFields_of (form := .atomic atomic32Rows) rfl]
  have : select atomic32Rows (Instr.fields (.atomicXor32 dst off src)).imm = .ok (.reading .atomicXor32) := rfl
  simp only [decodeForm, this]
  simp only [Instr.fields, regOf_regBits]
  rfl

theorem FieldsRoundTrip.atomicFetchXor32 (dst : Reg) (off : Off) (src : WReg) : FieldsRoundTrip.Statement (.atomicFetchXor32 dst off src) := by
  intro lcf next _ _
  rw [decodeFields_of (form := .atomic atomic32Rows) rfl]
  have : select atomic32Rows (Instr.fields (.atomicFetchXor32 dst off src)).imm = .ok (.fetching .atomicFetchXor32) := rfl
  simp only [decodeForm, this]
  simp only [Instr.fields, regOf_regBits, wregOf_regBits]
  rfl

theorem FieldsRoundTrip.atomicXchg32 (dst : Reg) (off : Off) (src : WReg) : FieldsRoundTrip.Statement (.atomicXchg32 dst off src) := by
  intro lcf next _ _
  rw [decodeFields_of (form := .atomic atomic32Rows) rfl]
  have : select atomic32Rows (Instr.fields (.atomicXchg32 dst off src)).imm = .ok (.fetching .atomicXchg32) := rfl
  simp only [decodeForm, this]
  simp only [Instr.fields, regOf_regBits, wregOf_regBits]
  rfl

theorem FieldsRoundTrip.atomicCmpxchg32 (dst : Reg) (off : Off) (src : Reg) : FieldsRoundTrip.Statement (.atomicCmpxchg32 dst off src) := by
  intro lcf next _ _
  rw [decodeFields_of (form := .atomic atomic32Rows) rfl]
  have : select atomic32Rows (Instr.fields (.atomicCmpxchg32 dst off src)).imm = .ok (.reading .atomicCmpxchg32) := rfl
  simp only [decodeForm, this]
  simp only [Instr.fields, regOf_regBits]
  rfl

theorem FieldsRoundTrip.atomicAdd64 (dst : Reg) (off : Off) (src : Reg) : FieldsRoundTrip.Statement (.atomicAdd64 dst off src) := by
  intro lcf next _ _
  rw [decodeFields_of (form := .atomic atomic64Rows) rfl]
  have : select atomic64Rows (Instr.fields (.atomicAdd64 dst off src)).imm = .ok (.reading .atomicAdd64) := rfl
  simp only [decodeForm, this]
  simp only [Instr.fields, regOf_regBits]
  rfl

theorem FieldsRoundTrip.atomicFetchAdd64 (dst : Reg) (off : Off) (src : WReg) : FieldsRoundTrip.Statement (.atomicFetchAdd64 dst off src) := by
  intro lcf next _ _
  rw [decodeFields_of (form := .atomic atomic64Rows) rfl]
  have : select atomic64Rows (Instr.fields (.atomicFetchAdd64 dst off src)).imm = .ok (.fetching .atomicFetchAdd64) := rfl
  simp only [decodeForm, this]
  simp only [Instr.fields, regOf_regBits, wregOf_regBits]
  rfl

theorem FieldsRoundTrip.atomicOr64 (dst : Reg) (off : Off) (src : Reg) : FieldsRoundTrip.Statement (.atomicOr64 dst off src) := by
  intro lcf next _ _
  rw [decodeFields_of (form := .atomic atomic64Rows) rfl]
  have : select atomic64Rows (Instr.fields (.atomicOr64 dst off src)).imm = .ok (.reading .atomicOr64) := rfl
  simp only [decodeForm, this]
  simp only [Instr.fields, regOf_regBits]
  rfl

theorem FieldsRoundTrip.atomicFetchOr64 (dst : Reg) (off : Off) (src : WReg) : FieldsRoundTrip.Statement (.atomicFetchOr64 dst off src) := by
  intro lcf next _ _
  rw [decodeFields_of (form := .atomic atomic64Rows) rfl]
  have : select atomic64Rows (Instr.fields (.atomicFetchOr64 dst off src)).imm = .ok (.fetching .atomicFetchOr64) := rfl
  simp only [decodeForm, this]
  simp only [Instr.fields, regOf_regBits, wregOf_regBits]
  rfl

theorem FieldsRoundTrip.atomicAnd64 (dst : Reg) (off : Off) (src : Reg) : FieldsRoundTrip.Statement (.atomicAnd64 dst off src) := by
  intro lcf next _ _
  rw [decodeFields_of (form := .atomic atomic64Rows) rfl]
  have : select atomic64Rows (Instr.fields (.atomicAnd64 dst off src)).imm = .ok (.reading .atomicAnd64) := rfl
  simp only [decodeForm, this]
  simp only [Instr.fields, regOf_regBits]
  rfl

theorem FieldsRoundTrip.atomicFetchAnd64 (dst : Reg) (off : Off) (src : WReg) : FieldsRoundTrip.Statement (.atomicFetchAnd64 dst off src) := by
  intro lcf next _ _
  rw [decodeFields_of (form := .atomic atomic64Rows) rfl]
  have : select atomic64Rows (Instr.fields (.atomicFetchAnd64 dst off src)).imm = .ok (.fetching .atomicFetchAnd64) := rfl
  simp only [decodeForm, this]
  simp only [Instr.fields, regOf_regBits, wregOf_regBits]
  rfl

theorem FieldsRoundTrip.atomicXor64 (dst : Reg) (off : Off) (src : Reg) : FieldsRoundTrip.Statement (.atomicXor64 dst off src) := by
  intro lcf next _ _
  rw [decodeFields_of (form := .atomic atomic64Rows) rfl]
  have : select atomic64Rows (Instr.fields (.atomicXor64 dst off src)).imm = .ok (.reading .atomicXor64) := rfl
  simp only [decodeForm, this]
  simp only [Instr.fields, regOf_regBits]
  rfl

theorem FieldsRoundTrip.atomicFetchXor64 (dst : Reg) (off : Off) (src : WReg) : FieldsRoundTrip.Statement (.atomicFetchXor64 dst off src) := by
  intro lcf next _ _
  rw [decodeFields_of (form := .atomic atomic64Rows) rfl]
  have : select atomic64Rows (Instr.fields (.atomicFetchXor64 dst off src)).imm = .ok (.fetching .atomicFetchXor64) := rfl
  simp only [decodeForm, this]
  simp only [Instr.fields, regOf_regBits, wregOf_regBits]
  rfl

theorem FieldsRoundTrip.atomicXchg64 (dst : Reg) (off : Off) (src : WReg) : FieldsRoundTrip.Statement (.atomicXchg64 dst off src) := by
  intro lcf next _ _
  rw [decodeFields_of (form := .atomic atomic64Rows) rfl]
  have : select atomic64Rows (Instr.fields (.atomicXchg64 dst off src)).imm = .ok (.fetching .atomicXchg64) := rfl
  simp only [decodeForm, this]
  simp only [Instr.fields, regOf_regBits, wregOf_regBits]
  rfl

theorem FieldsRoundTrip.atomicCmpxchg64 (dst : Reg) (off : Off) (src : Reg) : FieldsRoundTrip.Statement (.atomicCmpxchg64 dst off src) := by
  intro lcf next _ _
  rw [decodeFields_of (form := .atomic atomic64Rows) rfl]
  have : select atomic64Rows (Instr.fields (.atomicCmpxchg64 dst off src)).imm = .ok (.reading .atomicCmpxchg64) := rfl
  simp only [decodeForm, this]
  simp only [Instr.fields, regOf_regBits]
  rfl

theorem FieldsRoundTrip.lddw (dst : WReg) (imm : Imm) (nextImm : Imm) : FieldsRoundTrip.Statement (.lddw dst imm nextImm) := by
  intro lcf next _ h
  rw [decodeFields_of (form := .wide) rfl, h _ rfl]
  simp [decodeForm, decodeWide, Instr.fields, wregOf_regBits, unused, bind, Except.bind, pure, Except.pure]

theorem FieldsRoundTrip.ldMapFd (dst : WReg) (imm : Imm) : FieldsRoundTrip.Statement (.ldMapFd dst imm) := by
  intro lcf next _ h
  rw [decodeFields_of (form := .wide) rfl, h _ rfl]
  simp [decodeForm, decodeWide, Instr.fields, wregOf_regBits, unused, bind, Except.bind, pure, Except.pure]

theorem FieldsRoundTrip.ldMapFdValue (dst : WReg) (imm : Imm) (nextImm : Imm) : FieldsRoundTrip.Statement (.ldMapFdValue dst imm nextImm) := by
  intro lcf next _ h
  rw [decodeFields_of (form := .wide) rfl, h _ rfl]
  simp [decodeForm, decodeWide, Instr.fields, wregOf_regBits, unused, bind, Except.bind, pure, Except.pure]

theorem FieldsRoundTrip.ldVarAddr (dst : WReg) (imm : Imm) : FieldsRoundTrip.Statement (.ldVarAddr dst imm) := by
  intro lcf next _ h
  rw [decodeFields_of (form := .wide) rfl, h _ rfl]
  simp [decodeForm, decodeWide, Instr.fields, wregOf_regBits, unused, bind, Except.bind, pure, Except.pure]

theorem FieldsRoundTrip.ldCodeAddr (dst : WReg) (imm : Imm) : FieldsRoundTrip.Statement (.ldCodeAddr dst imm) := by
  intro lcf next _ h
  rw [decodeFields_of (form := .wide) rfl, h _ rfl]
  simp [decodeForm, decodeWide, Instr.fields, wregOf_regBits, unused, bind, Except.bind, pure, Except.pure]

theorem FieldsRoundTrip.ldMapIdx (dst : WReg) (imm : Imm) : FieldsRoundTrip.Statement (.ldMapIdx dst imm) := by
  intro lcf next _ h
  rw [decodeFields_of (form := .wide) rfl, h _ rfl]
  simp [decodeForm, decodeWide, Instr.fields, wregOf_regBits, unused, bind, Except.bind, pure, Except.pure]

theorem FieldsRoundTrip.ldMapIdxValue (dst : WReg) (imm : Imm) (nextImm : Imm) : FieldsRoundTrip.Statement (.ldMapIdxValue dst imm nextImm) := by
  intro lcf next _ h
  rw [decodeFields_of (form := .wide) rfl, h _ rfl]
  simp [decodeForm, decodeWide, Instr.fields, wregOf_regBits, unused, bind, Except.bind, pure, Except.pure]

theorem FieldsRoundTrip.ldabsw (dst : BitVec 4) (src : BitVec 4) (off : Off) (imm : Imm) : FieldsRoundTrip.Statement (.ldabsw dst src off imm) := by
  intro lcf next _ _
  rw [decodeFields_of (form := .any .ldabsw) rfl]
  rfl

theorem FieldsRoundTrip.ldabsh (dst : BitVec 4) (src : BitVec 4) (off : Off) (imm : Imm) : FieldsRoundTrip.Statement (.ldabsh dst src off imm) := by
  intro lcf next _ _
  rw [decodeFields_of (form := .any .ldabsh) rfl]
  rfl

theorem FieldsRoundTrip.ldabsb (dst : BitVec 4) (src : BitVec 4) (off : Off) (imm : Imm) : FieldsRoundTrip.Statement (.ldabsb dst src off imm) := by
  intro lcf next _ _
  rw [decodeFields_of (form := .any .ldabsb) rfl]
  rfl

theorem FieldsRoundTrip.ldabsdw (dst : BitVec 4) (src : BitVec 4) (off : Off) (imm : Imm) : FieldsRoundTrip.Statement (.ldabsdw dst src off imm) := by
  intro lcf next _ _
  rw [decodeFields_of (form := .any .ldabsdw) rfl]
  rfl

theorem FieldsRoundTrip.ldindw (dst : BitVec 4) (src : BitVec 4) (off : Off) (imm : Imm) : FieldsRoundTrip.Statement (.ldindw dst src off imm) := by
  intro lcf next _ _
  rw [decodeFields_of (form := .any .ldindw) rfl]
  rfl

theorem FieldsRoundTrip.ldindh (dst : BitVec 4) (src : BitVec 4) (off : Off) (imm : Imm) : FieldsRoundTrip.Statement (.ldindh dst src off imm) := by
  intro lcf next _ _
  rw [decodeFields_of (form := .any .ldindh) rfl]
  rfl

theorem FieldsRoundTrip.ldindb (dst : BitVec 4) (src : BitVec 4) (off : Off) (imm : Imm) : FieldsRoundTrip.Statement (.ldindb dst src off imm) := by
  intro lcf next _ _
  rw [decodeFields_of (form := .any .ldindb) rfl]
  rfl

theorem FieldsRoundTrip.ldinddw (dst : BitVec 4) (src : BitVec 4) (off : Off) (imm : Imm) : FieldsRoundTrip.Statement (.ldinddw dst src off imm) := by
  intro lcf next _ _
  rw [decodeFields_of (form := .any .ldinddw) rfl]
  rfl

end Sys2Proof.Laws
end

