-- ==== Sys2Proof/Tests/Slice0.lean ====
section
/-! SUPPORT. Tests: the decoder on words written from the spec's encodings, each well-formedness check, one step of
the instructions on the spec's vectors, load and launch, and a witness for the hypotheses of each obligation. -/

namespace Sys2Proof.Tests

open Sys2Proof Sys2Proof.Machine

/-! ## Decoding

Each word is written from the row of the instruction: opcode byte, dst_reg, src_reg, offset, imm in the bits of R81, the
selecting fields at the row's value; the operands have every bit position in use somewhere. -/

/-- The slots, little-endian BPF with LOCAL_CALL_FIELD = offset, decode to the instruction and nothing else. -/
def reads (ws : List Slot) (i : Instr) : Bool := decide ((decode .little .offset ws).toOption = some i)

/-- The slots decode to nothing. -/
def noInstr (e : Endian) (ws : List Slot) : Bool := decide ((decode e .offset ws).toOption = none)

theorem test_decode_alu64 : (
  reads [0x2152417e00000607] (.add64Imm 6 0x2152417e) &&
  reads [0x000000000000a90f] (.add64Reg 9 0xa) &&
  reads [0x2152417e00000617] (.sub64Imm 6 0x2152417e) &&
  reads [0x000000000000a91f] (.sub64Reg 9 0xa) &&
  reads [0x2152417e00000627] (.mul64Imm 6 0x2152417e) &&
  reads [0x000000000000a92f] (.mul64Reg 9 0xa) &&
  reads [0x2152417e00000637] (.div64Imm 6 0x2152417e) &&
  reads [0x000000000000a93f] (.div64Reg 9 0xa) &&
  reads [0x2152417e00000647] (.or64Imm 6 0x2152417e) &&
  reads [0x000000000000a94f] (.or64Reg 9 0xa) &&
  reads [0x2152417e00000657] (.and64Imm 6 0x2152417e) &&
  reads [0x000000000000a95f] (.and64Reg 9 0xa) &&
  reads [0x2152417e00000667] (.lsh64Imm 6 0x2152417e) &&
  reads [0x000000000000a96f] (.lsh64Reg 9 0xa) &&
  reads [0x2152417e00000677] (.rsh64Imm 6 0x2152417e) &&
  reads [0x000000000000a97f] (.rsh64Reg 9 0xa) &&
  reads [0x0000000000000687] (.neg64 6) &&
  reads [0xdeadbe0100000997] (.mod64Imm 9 0xdeadbe01) &&
  reads [0x000000000000569f] (.mod64Reg 6 5) &&
  reads [0xdeadbe01000009a7] (.xor64Imm 9 0xdeadbe01) &&
  reads [0x00000000000056af] (.xor64Reg 6 5) &&
  reads [0xdeadbe01000009b7] (.mov64Imm 9 0xdeadbe01) &&
  reads [0x00000000000056bf] (.mov64Reg 6 5) &&
  reads [0xdeadbe01000009c7] (.arsh64Imm 9 0xdeadbe01) &&
  reads [0x00000000000056cf] (.arsh64Reg 6 5)) = true := by decide

theorem test_decode_alu32 : (
  reads [0x2152417e00000604] (.add32Imm 6 0x2152417e) &&
  reads [0x000000000000a90c] (.add32Reg 9 0xa) &&
  reads [0x2152417e00000614] (.sub32Imm 6 0x2152417e) &&
  reads [0x000000000000a91c] (.sub32Reg 9 0xa) &&
  reads [0x2152417e00000624] (.mul32Imm 6 0x2152417e) &&
  reads [0x000000000000a92c] (.mul32Reg 9 0xa) &&
  reads [0x2152417e00000634] (.div32Imm 6 0x2152417e) &&
  reads [0x000000000000a93c] (.div32Reg 9 0xa) &&
  reads [0x2152417e00000644] (.or32Imm 6 0x2152417e) &&
  reads [0x000000000000a94c] (.or32Reg 9 0xa) &&
  reads [0x2152417e00000654] (.and32Imm 6 0x2152417e) &&
  reads [0x000000000000a95c] (.and32Reg 9 0xa) &&
  reads [0x2152417e00000664] (.lsh32Imm 6 0x2152417e) &&
  reads [0x000000000000a96c] (.lsh32Reg 9 0xa) &&
  reads [0x2152417e00000674] (.rsh32Imm 6 0x2152417e) &&
  reads [0x000000000000a97c] (.rsh32Reg 9 0xa) &&
  reads [0x0000000000000684] (.neg32 6) &&
  reads [0xdeadbe0100000994] (.mod32Imm 9 0xdeadbe01) &&
  reads [0x000000000000569c] (.mod32Reg 6 5) &&
  reads [0xdeadbe01000009a4] (.xor32Imm 9 0xdeadbe01) &&
  reads [0x00000000000056ac] (.xor32Reg 6 5) &&
  reads [0xdeadbe01000009b4] (.mov32Imm 9 0xdeadbe01) &&
  reads [0x00000000000056bc] (.mov32Reg 6 5) &&
  reads [0xdeadbe01000009c4] (.arsh32Imm 9 0xdeadbe01) &&
  reads [0x00000000000056cc] (.arsh32Reg 6 5)) = true := by decide

theorem test_decode_byteswap : (
  reads [0x00000010000006d4] (.le16 6) &&
  reads [0x00000020000009d4] (.le32 9) &&
  reads [0x00000040000006d4] (.le64 6) &&
  reads [0x00000010000009dc] (.be16 9) &&
  reads [0x00000020000006dc] (.be32 6) &&
  reads [0x00000040000009dc] (.be64 9)) = true := by decide

theorem test_decode_jump64 : (
  reads [0x000000005a3c0005] (.ja 0x5a3c) &&
  reads [0xdeadbe01a5c30a15] (.jeqImm 0xa 0xdeadbe01 0xa5c3) &&
  reads [0x000000005a3c551d] (.jeqReg 5 5 0x5a3c) &&
  reads [0xdeadbe01a5c30a25] (.jgtImm 0xa 0xdeadbe01 0xa5c3) &&
  reads [0x000000005a3c552d] (.jgtReg 5 5 0x5a3c) &&
  reads [0xdeadbe01a5c30a35] (.jgeImm 0xa 0xdeadbe01 0xa5c3) &&
  reads [0x000000005a3c553d] (.jgeReg 5 5 0x5a3c) &&
  reads [0xdeadbe01a5c30a45] (.jsetImm 0xa 0xdeadbe01 0xa5c3) &&
  reads [0x000000005a3c554d] (.jsetReg 5 5 0x5a3c) &&
  reads [0xdeadbe01a5c30a55] (.jneImm 0xa 0xdeadbe01 0xa5c3) &&
  reads [0x000000005a3c555d] (.jneReg 5 5 0x5a3c) &&
  reads [0xdeadbe01a5c30a65] (.jsgtImm 0xa 0xdeadbe01 0xa5c3) &&
  reads [0x000000005a3c556d] (.jsgtReg 5 5 0x5a3c) &&
  reads [0xdeadbe01a5c30a75] (.jsgeImm 0xa 0xdeadbe01 0xa5c3) &&
  reads [0x000000005a3c557d] (.jsgeReg 5 5 0x5a3c) &&
  reads [0xdeadbe01a5c30aa5] (.jltImm 0xa 0xdeadbe01 0xa5c3) &&
  reads [0x000000005a3c55ad] (.jltReg 5 5 0x5a3c) &&
  reads [0xdeadbe01a5c30ab5] (.jleImm 0xa 0xdeadbe01 0xa5c3) &&
  reads [0x000000005a3c55bd] (.jleReg 5 5 0x5a3c) &&
  reads [0xdeadbe01a5c30ac5] (.jsltImm 0xa 0xdeadbe01 0xa5c3) &&
  reads [0x000000005a3c55cd] (.jsltReg 5 5 0x5a3c) &&
  reads [0xdeadbe01a5c30ad5] (.jsleImm 0xa 0xdeadbe01 0xa5c3) &&
  reads [0x000000005a3c55dd] (.jsleReg 5 5 0x5a3c)) = true := by decide

theorem test_decode_jump32 : (
  reads [0x2152417e5a3c0516] (.jeq32Imm 5 0x2152417e 0x5a3c) &&
  reads [0x00000000a5c3aa1e] (.jeq32Reg 0xa 0xa 0xa5c3) &&
  reads [0x2152417e5a3c0526] (.jgt32Imm 5 0x2152417e 0x5a3c) &&
  reads [0x00000000a5c3aa2e] (.jgt32Reg 0xa 0xa 0xa5c3) &&
  reads [0x2152417e5a3c0536] (.jge32Imm 5 0x2152417e 0x5a3c) &&
  reads [0x00000000a5c3aa3e] (.jge32Reg 0xa 0xa 0xa5c3) &&
  reads [0x2152417e5a3c0546] (.jset32Imm 5 0x2152417e 0x5a3c) &&
  reads [0x00000000a5c3aa4e] (.jset32Reg 0xa 0xa 0xa5c3) &&
  reads [0x2152417e5a3c0556] (.jne32Imm 5 0x2152417e 0x5a3c) &&
  reads [0x00000000a5c3aa5e] (.jne32Reg 0xa 0xa 0xa5c3) &&
  reads [0x2152417e5a3c0566] (.jsgt32Imm 5 0x2152417e 0x5a3c) &&
  reads [0x00000000a5c3aa6e] (.jsgt32Reg 0xa 0xa 0xa5c3) &&
  reads [0x2152417e5a3c0576] (.jsge32Imm 5 0x2152417e 0x5a3c) &&
  reads [0x00000000a5c3aa7e] (.jsge32Reg 0xa 0xa 0xa5c3) &&
  reads [0x2152417e5a3c05a6] (.jlt32Imm 5 0x2152417e 0x5a3c) &&
  reads [0x00000000a5c3aaae] (.jlt32Reg 0xa 0xa 0xa5c3) &&
  reads [0x2152417e5a3c05b6] (.jle32Imm 5 0x2152417e 0x5a3c) &&
  reads [0x00000000a5c3aabe] (.jle32Reg 0xa 0xa 0xa5c3) &&
  reads [0x2152417e5a3c05c6] (.jslt32Imm 5 0x2152417e 0x5a3c) &&
  reads [0x00000000a5c3aace] (.jslt32Reg 0xa 0xa 0xa5c3) &&
  reads [0x2152417e5a3c05d6] (.jsle32Imm 5 0x2152417e 0x5a3c) &&
  reads [0x00000000a5c3aade] (.jsle32Reg 0xa 0xa 0xa5c3)) = true := by decide

theorem test_decode_call_exit : (
  reads [0x2152417e00000085] (.callHelper 0x2152417e) &&
  reads [0x00000000a5c31085] (.callLocal 0xa5c3 0) &&
  reads [0x2152417e00002085] (.callPlatform 0x2152417e) &&
  reads [0x0000000000000095] (.exit)) = true := by decide

theorem test_decode_load_store : (
  reads [0x000000005a3c5661] (.ldxw 6 5 0x5a3c) &&
  reads [0x00000000a5c3a969] (.ldxh 9 0xa 0xa5c3) &&
  reads [0x000000005a3c5671] (.ldxb 6 5 0x5a3c) &&
  reads [0x00000000a5c3a979] (.ldxdw 9 0xa 0xa5c3) &&
  reads [0x2152417e5a3c0562] (.stw 5 0x5a3c 0x2152417e) &&
  reads [0xdeadbe01a5c30a6a] (.sth 0xa 0xa5c3 0xdeadbe01) &&
  reads [0x2152417e5a3c0572] (.stb 5 0x5a3c 0x2152417e) &&
  reads [0xdeadbe01a5c30a7a] (.stdw 0xa 0xa5c3 0xdeadbe01) &&
  reads [0x000000005a3c5563] (.stxw 5 0x5a3c 5) &&
  reads [0x00000000a5c3aa6b] (.stxh 0xa 0xa5c3 0xa) &&
  reads [0x000000005a3c5573] (.stxb 5 0x5a3c 5) &&
  reads [0x00000000a5c3aa7b] (.stxdw 0xa 0xa5c3 0xa)) = true := by decide

theorem test_decode_atomic : (
  reads [0x000000005a3c55c3] (.atomicAdd32 5 0x5a3c 5) &&
  reads [0x00000001a5c39ac3] (.atomicFetchAdd32 0xa 0xa5c3 9) &&
  reads [0x000000405a3c55c3] (.atomicOr32 5 0x5a3c 5) &&
  reads [0x00000041a5c39ac3] (.atomicFetchOr32 0xa 0xa5c3 9) &&
  reads [0x000000505a3c55c3] (.atomicAnd32 5 0x5a3c 5) &&
  reads [0x00000051a5c39ac3] (.atomicFetchAnd32 0xa 0xa5c3 9) &&
  reads [0x000000a05a3c55c3] (.atomicXor32 5 0x5a3c 5) &&
  reads [0x000000a1a5c39ac3] (.atomicFetchXor32 0xa 0xa5c3 9) &&
  reads [0x000000e15a3c65c3] (.atomicXchg32 5 0x5a3c 6) &&
  reads [0x000000f1a5c3aac3] (.atomicCmpxchg32 0xa 0xa5c3 0xa) &&
  reads [0x000000005a3c55db] (.atomicAdd64 5 0x5a3c 5) &&
  reads [0x00000001a5c39adb] (.atomicFetchAdd64 0xa 0xa5c3 9) &&
  reads [0x000000405a3c55db] (.atomicOr64 5 0x5a3c 5) &&
  reads [0x00000041a5c39adb] (.atomicFetchOr64 0xa 0xa5c3 9) &&
  reads [0x000000505a3c55db] (.atomicAnd64 5 0x5a3c 5) &&
  reads [0x00000051a5c39adb] (.atomicFetchAnd64 0xa 0xa5c3 9) &&
  reads [0x000000a05a3c55db] (.atomicXor64 5 0x5a3c 5) &&
  reads [0x000000a1a5c39adb] (.atomicFetchXor64 0xa 0xa5c3 9) &&
  reads [0x000000e15a3c65db] (.atomicXchg64 5 0x5a3c 6) &&
  reads [0x000000f1a5c3aadb] (.atomicCmpxchg64 0xa 0xa5c3 0xa)) = true := by decide

theorem test_decode_imm64 : (
  reads [0x2152417e00000618, 0x7654321000000000] (.lddw 6 0x2152417e 0x76543210) &&
  reads [0xdeadbe0100001918, 0x0000000000000000] (.ldMapFd 9 0xdeadbe01) &&
  reads [0x2152417e00002618, 0x7654321000000000] (.ldMapFdValue 6 0x2152417e 0x76543210) &&
  reads [0xdeadbe0100003918, 0x0000000000000000] (.ldVarAddr 9 0xdeadbe01) &&
  reads [0x2152417e00004618, 0x0000000000000000] (.ldCodeAddr 6 0x2152417e) &&
  reads [0xdeadbe0100005918, 0x0000000000000000] (.ldMapIdx 9 0xdeadbe01) &&
  reads [0x2152417e00006618, 0x7654321000000000] (.ldMapIdxValue 6 0x2152417e 0x76543210)) = true := by decide

theorem test_decode_legacy : (
  reads [0x2152417e5a3cc520] (.ldabsw 5 0xc 0x5a3c 0x2152417e) &&
  reads [0xdeadbe01a5c3af28] (.ldabsh 0xf 0xa 0xa5c3 0xdeadbe01) &&
  reads [0x2152417e5a3cc530] (.ldabsb 5 0xc 0x5a3c 0x2152417e) &&
  reads [0xdeadbe01a5c3af38] (.ldabsdw 0xf 0xa 0xa5c3 0xdeadbe01) &&
  reads [0x2152417e5a3cc540] (.ldindw 5 0xc 0x5a3c 0x2152417e) &&
  reads [0xdeadbe01a5c3af48] (.ldindh 0xf 0xa 0xa5c3 0xdeadbe01) &&
  reads [0x2152417e5a3cc550] (.ldindb 5 0xc 0x5a3c 0x2152417e) &&
  reads [0xdeadbe01a5c3af58] (.ldinddw 0xf 0xa 0xa5c3 0xdeadbe01)) = true := by decide

/-- Big-endian BPF: the spec's vectors E1 to E14, the bytes of each in rising order from the low end. -/
theorem test_decode_big_endian : (
  decide ((decode .big .offset [0xfeffffff000030b7]).toOption = some (.mov64Imm 3 0xfffffffe)) &&
  decide ((decode .big .offset [0x0000000000009a0f]).toOption = some (.add64Reg 9 0xa)) &&
  decide ((decode .big .offset [0x00000000feff0005]).toOption = some (.ja 0xfffe)) &&
  decide ((decode .big .offset [0x00000000fdff1055]).toOption = some (.jneImm 1 0 0xfffd)) &&
  decide ((decode .big .offset [0x000000003412237e]).toOption = some (.jsge32Reg 2 3 0x1234)) &&
  decide ((decode .big .offset [0x00000000faff4a69]).toOption = some (.ldxh 4 0xa 0xfffa)) &&
  decide ((decode .big .offset [0xfffffffff0ffa07a]).toOption = some (.stdw 0xa 0xfff0 0xffffffff)) &&
  decide ((decode .big .offset [0xf1000000080012db]).toOption = some (.atomicCmpxchg64 1 8 2)) &&
  decide ((decode .big .offset [0x10000000000050dc]).toOption = some (.be16 5)) &&
  decide ((decode .big .offset [0x0c00000000000085]).toOption = some (.callHelper 0xc)) &&
  decide ((decode .big .offset [0x0000000003000185]).toOption = some (.callLocal 3 0)) &&
  decide ((decode .big .offset [0x0000000000000095]).toOption = some (.exit)) &&
  decide ((decode .big .offset [0x1122334400002018, 0x5566778800000000]).toOption = some (.lddw 2 0x44332211 0x88776655)) &&
  decide ((decode .big .offset [0x0000000000007084]).toOption = some (.neg32 7))) = true := by decide

/-- What is not an instruction: the spec's vectors X1 to X5, X7 to X16, X18, X21. -/
theorem test_decode_refuses : (
  noInstr .little [0x0000000000000000] &&
  noInstr .little [0x0000000500010107] &&
  noInstr .little [0x000000050000210f] &&
  noInstr .little [0x0000000100000b07] &&
  noInstr .little [0x0000000100000a07] &&
  noInstr .little [0x00000008000001d4] &&
  noInstr .little [0x00000010000001d7] &&
  noInstr .little [0x0000000100003085] &&
  noInstr .little [0x000000000000008d] &&
  noInstr .little [0x00000010fff81ac3] &&
  noInstr .little [0x000000e0fff81ac3] &&
  noInstr .little [0x00000000fff81acb] &&
  noInstr .little [0x0000000100000118, 0x0000000000010000] &&
  noInstr .little [0x0000000000007118, 0x0000000000000000] &&
  noInstr .little [0x0000000100000118] &&
  noInstr .little [0x0000000100000184] &&
  noInstr .little [0x0000000100000095] &&
  noInstr .little []) = true := by decide

/-- R102 and R281: the field LOCAL_CALL_FIELD does not name is 0. -/
theorem test_decode_local_call_field : (
  decide ((decode .little .imm [0x0000000300001085]).toOption = some (.callLocal 0 3)) &&
  decide ((decode .little .imm [0x0000000000031085]).toOption = none) &&
  decide ((decode .little .offset [0x0000000300001085]).toOption = none)) = true := by decide

/-- R103: the eight legacy loads are named, with any field (L1). -/
theorem test_decode_table_word : (
  decide (decodeTableWord 64 0x0000000e00000020 = some (.ldabsw 0 0 0 14)) &&
  decide (decodeTableWord 128 0x44332211000000005566778800000118 = some (.lddw 1 0x55667788 0x44332211)) &&
  decide (decodeTableWord 64 0x0000000700001118 = some (.ldMapFd 1 7)) &&
  decide (decodeTableWord 64 0 = none)) = true := by decide

/-! ## Well-formedness: a term that each check refuses, and one it accepts -/

/-- A helper of two arguments: one outcome for 40 and 2; two for 41 and 2 where memory holds a byte. -/
def helper1 : Helper := ⟨2, [⟨[40, 2], [], .ret (some 42) [], []⟩, ⟨[41, 2], [(0xfff8, 5)], .ret (some 1) [], [.fault 4]⟩]⟩

/-- A helper of no argument and no value. -/
def helper2 : Helper := ⟨0, [⟨[], [], .ret none [], []⟩]⟩

/-- A helper that writes a byte of the frame and names one outside every region; it faults for 0. -/
def helper9 : Helper := ⟨1, [⟨[0xfff8], [], .ret (some 1) [(0xfff8, 0x77), (0x20000, 0x55)], []⟩, ⟨[0], [], .fault 3, []⟩]⟩

/-- A configuration with three helpers, a map, a variable and shifts refused by policy. -/
def cfgW : Config :=
  { Config.testVectors with
    helpersAgnostic := [(1, helper1), (2, helper2)]
    helpersPlatform := [(9, helper9)]
    mapsSupported := true
    mapByFd := [(7, 0x5000)]
    mapByIdx := [(0, 0x6000)]
    mva := [(0x5000, 0x7000), (0x6000, 0x10)]
    varsSupported := true
    variableAddr := [(3, 0x8888)]
    shiftPolicy := .refuse }

theorem test_wf_unused_field : (Instr.wellFormed cfgW (.callLocal 3 1) = false) ∧ Instr.wellFormed cfgW (.callLocal 3 0) = true := by decide
theorem test_wf_unknown_helper : (Instr.wellFormed cfgW (.callHelper 3) = false) ∧ (Instr.wellFormed cfgW (.callPlatform 1) = false) ∧
    Instr.wellFormed cfgW (.callHelper 1) = true := by decide
theorem test_wf_unsupported : (Instr.wellFormed cfgW (.ldMapFd 1 8) = false) ∧ (Instr.wellFormed .testVectors (.ldVarAddr 1 3) = false) ∧
    Instr.wellFormed cfgW (.ldMapIdxValue 1 0 5) = true := by decide
theorem test_wf_legacy : Instr.wellFormed { cfgW with legacyPacket := true } (.ldindw 0 0 0 0) = false := by decide
theorem test_wf_shift_range : (Instr.wellFormed cfgW (.lsh64Imm 1 64) = false) ∧ (Instr.wellFormed cfgW (.rsh32Imm 1 32) = false) ∧
    Instr.wellFormed cfgW (.lsh64Imm 1 63) = true ∧ Instr.wellFormed .testVectors (.lsh64Imm 1 64) = true := by decide

/-! ## One step: the vectors of spec/95_test_vectors.md and the examples of the instruction rules -/

/-- The reset state with registers and memory set. -/
def st (rs : List (Reg × Word)) (m : Memory) : State :=
  { State.reset with
    mem := m
    regs := Vector.ofFn fun i => match rs.lookup i with | some v => ⟨v, true⟩ | none => State.reset.regs[i] }

/-- The instruction answers a running next state at the slot, with these registers, the others as before, and this memory. -/
def gives (s : State) (i : Instr) (rs : List (Reg × Word)) (m : Memory) (pc : Nat) : Bool :=
  match exec i s with
  | .next t => decide (t.status = .running) && t.pc == pc && decide (t.mem = m) &&
      (List.finRange 11).all fun r => decide (t.reg r = match rs.lookup r with | some v => ⟨v, true⟩ | none => s.reg r)
  | _ => false

/-- The instruction faults, and nothing but the status changes. -/
def traps (s : State) (i : Instr) (k : FaultKind) : Bool :=
  match exec i s with
  | .next t => decide (t = s.faultedWith k)
  | _ => false

/-- The same state with the other byte order. -/
def big (s : State) : State := { s with cfg := { s.cfg with endian := .big } }

/-- The same state where misaligned regular accesses are allowed. -/
def loose (s : State) : State := { s with cfg := { s.cfg with alignPolicy := .allow } }

theorem test_alu64_vectors_a : (
  gives (st [(1, 0)] []) (.add64Imm 1 0xffffffff) [(1, 0xffffffffffffffff)] [] 1 &&
  gives (st [(1, 0x8000000000000001)] []) (.add64Reg 1 1) [(1, 2)] [] 1 &&
  gives (st [(1, 0), (2, 1)] []) (.sub64Reg 1 2) [(1, 0xffffffffffffffff), (2, 1)] [] 1 &&
  gives (st [(1, 0x100000000), (2, 0x100000000)] []) (.mul64Reg 1 2) [(1, 0), (2, 0x100000000)] [] 1 &&
  gives (st [(1, 5)] []) (.mul64Imm 1 0xffffffff) [(1, 0xfffffffffffffffb)] [] 1 &&
  gives (st [(1, 0xfffffffffffffffe)] []) (.div64Imm 1 0xffffffff) [(1, 0)] [] 1 &&
  gives (st [(1, 0x4d)] []) (.div64Imm 1 0) [(1, 0)] [] 1 &&
  gives (st [(1, 0x4d), (2, 0)] []) (.div64Reg 1 2) [(1, 0), (2, 0)] [] 1) = true := by decide

theorem test_alu64_vectors_b : (
  gives (st [(1, 0xffffffffffffffff), (2, 2)] []) (.div64Reg 1 2) [(1, 0x7fffffffffffffff), (2, 2)] [] 1 &&
  gives (st [(1, 0x4d), (2, 0)] []) (.mod64Reg 1 2) [(1, 0x4d), (2, 0)] [] 1 &&
  gives (st [(1, 0xa)] []) (.mod64Imm 1 0xfffffffd) [(1, 0xa)] [] 1 &&
  gives (st [(1, 0xffffffffffffffff)] []) (.mod64Imm 1 7) [(1, 1)] [] 1 &&
  gives (st [(1, 0x12)] []) (.or64Imm 1 0xffffff00) [(1, 0xffffffffffffff12)] [] 1 &&
  gives (st [(1, 0x123456789abcdef0)] []) (.and64Imm 1 0xffffff00) [(1, 0x123456789abcde00)] [] 1 &&
  gives (st [(1, 0xff00ff00ff00ff)] []) (.xor64Imm 1 0xffffffff) [(1, 0xff00ff00ff00ff00)] [] 1 &&
  gives (st [(1, 0x1234)] []) (.xor64Reg 1 1) [(1, 0)] [] 1) = true := by decide

theorem test_alu64_vectors_c : (
  gives (st [(1, 3)] []) (.lsh64Imm 1 0x3f) [(1, 0x8000000000000000)] [] 1 &&
  gives (st [(1, 3), (2, 0x40)] []) (.lsh64Reg 1 2) [(1, 3), (2, 0x40)] [] 1 &&
  gives (st [(1, 0x8000000000000000), (2, 0x41)] []) (.rsh64Reg 1 2) [(1, 0x4000000000000000), (2, 0x41)] [] 1 &&
  gives (st [(1, 0x8000000000000000), (2, 0xffffffffffffffff)] []) (.rsh64Reg 1 2) [(1, 1), (2, 0xffffffffffffffff)] [] 1 &&
  gives (st [(1, 0x8000000000000000)] []) (.arsh64Imm 1 0x3f) [(1, 0xffffffffffffffff)] [] 1 &&
  gives (st [(1, 0x7000000000000000)] []) (.arsh64Imm 1 4) [(1, 0x700000000000000)] [] 1 &&
  gives (st [(1, 1)] []) (.neg64 1) [(1, 0xffffffffffffffff)] [] 1 &&
  gives (st [(1, 0x8000000000000000)] []) (.neg64 1) [(1, 0x8000000000000000)] [] 1) = true := by decide

theorem test_alu64_vectors_d : (
  gives (st [] []) (.mov64Imm 1 0x80000000) [(1, 0xffffffff80000000)] [] 1 &&
  gives (st [] []) (.mov64Reg 1 0xa) [(1, 0x10000)] [] 1 &&
  traps (st [(1, 1)] []) (.add64Reg 1 2) (.uninitRegister 2) &&
  traps (st [] []) (.add64Imm 6 1) (.uninitRegister 6) &&
  gives (st [(1, 5)] []) (.sub64Imm 1 7) [(1, 0xfffffffffffffffe)] [] 1 &&
  gives (st [(1, 0xf0f0), (2, 0xff0)] []) (.or64Reg 1 2) [(1, 0xfff0), (2, 0xff0)] [] 1 &&
  gives (st [(1, 0xf0f0), (2, 0xff0)] []) (.and64Reg 1 2) [(1, 0xf0), (2, 0xff0)] [] 1 &&
  gives (st [(1, 0x8000000000000000)] []) (.rsh64Imm 1 0x3f) [(1, 1)] [] 1) = true := by decide

theorem test_alu64_vectors_e : (
  gives (st [(1, 0x8000000000000010), (2, 4)] []) (.arsh64Reg 1 2) [(1, 0xf800000000000001), (2, 4)] [] 1) = true := by decide

theorem test_alu32_vectors_a : (
  gives (st [(1, 0xaaaaaaaaffffffff), (2, 0x5555555500000001)] []) (.add32Reg 1 2) [(1, 0), (2, 0x5555555500000001)] [] 1 &&
  gives (st [(1, 0xaaaaaaaa00000000)] []) (.add32Imm 1 0xffffffff) [(1, 0xffffffff)] [] 1 &&
  gives (st [(1, 0)] []) (.sub32Imm 1 1) [(1, 0xffffffff)] [] 1 &&
  gives (st [(1, 0x10000), (2, 0x10000)] []) (.mul32Reg 1 2) [(1, 0), (2, 0x10000)] [] 1 &&
  gives (st [(1, 0xaaaaaaaafffffffe)] []) (.div32Imm 1 0xffffffff) [(1, 0)] [] 1 &&
  gives (st [(1, 0xaaaaaaaaffffffff)] []) (.div32Imm 1 0xffffffff) [(1, 1)] [] 1 &&
  gives (st [(1, 0x64), (2, 0x700000000)] []) (.div32Reg 1 2) [(1, 0), (2, 0x700000000)] [] 1 &&
  gives (st [(1, 0xaaaaaaaa00000064), (2, 0x700000007)] []) (.div32Reg 1 2) [(1, 0xe), (2, 0x700000007)] [] 1) = true := by decide

theorem test_alu32_vectors_b : (
  gives (st [(1, 0xaaaaaaaa00000007), (2, 0)] []) (.mod32Reg 1 2) [(1, 7), (2, 0)] [] 1 &&
  gives (st [(1, 0xaaaaaaaa00000007)] []) (.mod32Imm 1 0) [(1, 7)] [] 1 &&
  gives (st [(1, 0xffffffff)] []) (.mod32Imm 1 0xfffffffe) [(1, 1)] [] 1 &&
  gives (st [(1, 0xaaaaaaaa00000000)] []) (.or32Imm 1 0xffffffff) [(1, 0xffffffff)] [] 1 &&
  gives (st [(1, 0xffffffffffffffff), (2, 0xffffffffffffffff)] []) (.and32Reg 1 2) [(1, 0xffffffff), (2, 0xffffffffffffffff)] [] 1 &&
  gives (st [(1, 0xaaaaaaaaffffffff)] []) (.xor32Imm 1 0xf0f0f0f) [(1, 0xf0f0f0f0)] [] 1 &&
  gives (st [(1, 0xaaaaaaaa00000003)] []) (.lsh32Imm 1 0x1f) [(1, 0x80000000)] [] 1 &&
  gives (st [(1, 0xaaaaaaaa00000003), (2, 0x20)] []) (.lsh32Reg 1 2) [(1, 3), (2, 0x20)] [] 1) = true := by decide

theorem test_alu32_vectors_c : (
  gives (st [(1, 0xaaaaaaaa80000000), (2, 0x21)] []) (.rsh32Reg 1 2) [(1, 0x40000000), (2, 0x21)] [] 1 &&
  gives (st [(1, 0x1234567880000000)] []) (.arsh32Imm 1 4) [(1, 0xf8000000)] [] 1 &&
  gives (st [(1, 0x7fffffff)] []) (.arsh32Imm 1 0x1f) [(1, 0)] [] 1 &&
  gives (st [(1, 0xaaaaaaaa00000001)] []) (.neg32 1) [(1, 0xffffffff)] [] 1 &&
  gives (st [(1, 0)] []) (.neg32 1) [(1, 0)] [] 1 &&
  gives (st [] []) (.mov32Imm 1 0xffffffff) [(1, 0xffffffff)] [] 1 &&
  gives (st [(2, 0x1122334455667788)] []) (.mov32Reg 1 2) [(1, 0x55667788), (2, 0x1122334455667788)] [] 1 &&
  gives (st [(1, 0x1122334455667788)] []) (.mov32Reg 1 1) [(1, 0x55667788)] [] 1) = true := by decide

theorem test_alu32_vectors_d : (
  gives (st [(1, 0xaaaaaaaa00000005), (2, 0x5555555500000007)] []) (.sub32Reg 1 2) [(1, 0xfffffffe), (2, 0x5555555500000007)] [] 1 &&
  gives (st [(1, 0xaaaaaaaa00000003)] []) (.mul32Imm 1 0xfffffffe) [(1, 0xfffffffa)] [] 1 &&
  gives (st [(1, 0xaaaaaaaa0000f0f0), (2, 0x5555555500000ff0)] []) (.or32Reg 1 2) [(1, 0xfff0), (2, 0x5555555500000ff0)] [] 1 &&
  gives (st [(1, 0xaaaaaaaa9abcdef7)] []) (.and32Imm 1 0xfffffff0) [(1, 0x9abcdef0)] [] 1 &&
  gives (st [(1, 0xaaaaaaaa80000000)] []) (.rsh32Imm 1 0x1f) [(1, 1)] [] 1 &&
  gives (st [(1, 0xaaaaaaaa0000f0f0), (2, 0x5555555500000ff0)] []) (.xor32Reg 1 2) [(1, 0xff00), (2, 0x5555555500000ff0)] [] 1 &&
  gives (st [(1, 0xaaaaaaaa80000010), (2, 0x5555555500000004)] []) (.arsh32Reg 1 2) [(1, 0xf8000001), (2, 0x5555555500000004)] [] 1) = true := by decide

theorem test_byteswap_vectors_a : (
  gives (st [(1, 0x1122334455667788)] []) (.le16 1) [(1, 0x7788)] [] 1 &&
  gives (big (st [(1, 0x1122334455667788)] [])) (.le16 1) [(1, 0x8877)] [] 1 &&
  gives (st [(1, 0x1122334455667788)] []) (.le32 1) [(1, 0x55667788)] [] 1 &&
  gives (big (st [(1, 0x1122334455667788)] [])) (.le32 1) [(1, 0x88776655)] [] 1 &&
  gives (st [(1, 0x1122334455667788)] []) (.le64 1) [(1, 0x1122334455667788)] [] 1 &&
  gives (big (st [(1, 0x1122334455667788)] [])) (.le64 1) [(1, 0x8877665544332211)] [] 1 &&
  gives (st [(1, 0x1122334455667788)] []) (.be16 1) [(1, 0x8877)] [] 1 &&
  gives (big (st [(1, 0x1122334455667788)] [])) (.be16 1) [(1, 0x7788)] [] 1) = true := by decide

theorem test_byteswap_vectors_b : (
  gives (st [(1, 0x1122334455667788)] []) (.be32 1) [(1, 0x88776655)] [] 1 &&
  gives (big (st [(1, 0x1122334455667788)] [])) (.be32 1) [(1, 0x55667788)] [] 1 &&
  gives (st [(1, 0x1122334455667788)] []) (.be64 1) [(1, 0x8877665544332211)] [] 1 &&
  gives (big (st [(1, 0x1122334455667788)] [])) (.be64 1) [(1, 0x1122334455667788)] [] 1 &&
  traps (st [] []) (.be16 1) (.uninitRegister 1)) = true := by decide

theorem test_jump64_vectors_a : (
  gives (st [] []) (.ja 1) [] [] 2 &&
  gives (st [(1, 0xffffffffffffffff)] []) (.jeqImm 1 0xffffffff 1) [(1, 0xffffffffffffffff)] [] 2 &&
  gives (st [(1, 0xffffffff)] []) (.jeqImm 1 0xffffffff 1) [(1, 0xffffffff)] [] 1 &&
  gives (st [(1, 0x100000005), (2, 5)] []) (.jeqReg 1 2 1) [(1, 0x100000005), (2, 5)] [] 1 &&
  gives (st [(1, 0xffffffffffffffff)] []) (.jgtImm 1 1 1) [(1, 0xffffffffffffffff)] [] 2 &&
  gives (st [(1, 0xffffffffffffffff)] []) (.jsgtImm 1 1 1) [(1, 0xffffffffffffffff)] [] 1 &&
  gives (st [(1, 5), (2, 5)] []) (.jgeReg 1 2 1) [(1, 5), (2, 5)] [] 2 &&
  gives (st [(1, 0x8000000000000000)] []) (.jsgeImm 1 0x80000000 1) [(1, 0x8000000000000000)] [] 1) = true := by decide

theorem test_jump64_vectors_b : (
  gives (st [(1, 0x100000000)] []) (.jsetImm 1 0x80000000 1) [(1, 0x100000000)] [] 2 &&
  gives (st [(1, 0xf0), (2, 0xf)] []) (.jsetReg 1 2 1) [(1, 0xf0), (2, 0xf)] [] 1 &&
  gives (st [(1, 0x100000000)] []) (.jneImm 1 0 1) [(1, 0x100000000)] [] 2 &&
  gives (st [(1, 1), (2, 0xffffffffffffffff)] []) (.jltReg 1 2 1) [(1, 1), (2, 0xffffffffffffffff)] [] 2 &&
  gives (st [(1, 1), (2, 0xffffffffffffffff)] []) (.jsltReg 1 2 1) [(1, 1), (2, 0xffffffffffffffff)] [] 1 &&
  gives (st [(1, 0xffffffffffffffff)] []) (.jleImm 1 0xffffffff 1) [(1, 0xffffffffffffffff)] [] 2 &&
  gives (st [(1, 0x8000000000000000)] []) (.jsleImm 1 0 1) [(1, 0x8000000000000000)] [] 2 &&
  gives (st [(1, 3)] []) (.jsgtReg 1 1 1) [(1, 3)] [] 1) = true := by decide

theorem test_jump64_vectors_c : (
  traps (st [(1, 3)] []) (.jeqReg 1 2 1) (.uninitRegister 2) &&
  gives { st [(1, 6), (2, 5)] [] with pc := 10 } (.jgtReg 1 2 3) [(1, 6), (2, 5)] [] 14 &&
  gives { st [(1, 5)] [] with pc := 10 } (.jgeImm 1 5 3) [(1, 5)] [] 14 &&
  gives { st [(1, 5), (2, 6)] [] with pc := 10 } (.jneReg 1 2 3) [(1, 5), (2, 6)] [] 14 &&
  gives { st [(1, 0xffffffffffffffff), (2, 0xffffffffffffffff)] [] with pc := 10 } (.jsgeReg 1 2 3) [(1, 0xffffffffffffffff), (2, 0xffffffffffffffff)] [] 14 &&
  gives { st [(1, 4)] [] with pc := 10 } (.jltImm 1 5 3) [(1, 4)] [] 14 &&
  gives { st [(1, 5), (2, 5)] [] with pc := 10 } (.jleReg 1 2 3) [(1, 5), (2, 5)] [] 14 &&
  gives { st [(1, 0xffffffffffffffff)] [] with pc := 10 } (.jsltImm 1 0 3) [(1, 0xffffffffffffffff)] [] 14) = true := by decide

theorem test_jump64_vectors_d : (
  gives { st [(1, 0xffffffffffffffff), (2, 0xffffffffffffffff)] [] with pc := 10 } (.jsleReg 1 2 3) [(1, 0xffffffffffffffff), (2, 0xffffffffffffffff)] [] 14) = true := by decide

theorem test_jump32_vectors_a : (
  gives (st [(1, 0x100000005), (2, 5)] []) (.jeq32Reg 1 2 1) [(1, 0x100000005), (2, 5)] [] 2 &&
  gives (st [(1, 0xffffffff)] []) (.jeq32Imm 1 0xffffffff 1) [(1, 0xffffffff)] [] 2 &&
  gives (st [(1, 0xffffffff00000000)] []) (.jgt32Imm 1 1 1) [(1, 0xffffffff00000000)] [] 1 &&
  gives (st [(1, 0x80000000)] []) (.jsgt32Imm 1 0 1) [(1, 0x80000000)] [] 1 &&
  gives (st [(1, 0x7fffffff), (2, 0x80000000)] []) (.jsge32Reg 1 2 1) [(1, 0x7fffffff), (2, 0x80000000)] [] 2 &&
  gives (st [(1, 0x7fffffff), (2, 0x80000000)] []) (.jge32Reg 1 2 1) [(1, 0x7fffffff), (2, 0x80000000)] [] 1 &&
  gives (st [(1, 0xffffffff00000000)] []) (.jset32Imm 1 0xffffffff 1) [(1, 0xffffffff00000000)] [] 1 &&
  gives (st [(1, 0x100000000), (2, 0x200000000)] []) (.jne32Reg 1 2 1) [(1, 0x100000000), (2, 0x200000000)] [] 1) = true := by decide

theorem test_jump32_vectors_b : (
  gives (st [(1, 5)] []) (.jlt32Imm 1 0xffffffff 1) [(1, 5)] [] 2 &&
  gives (st [(1, 0xffffffff00000005)] []) (.jle32Imm 1 5 1) [(1, 0xffffffff00000005)] [] 2 &&
  gives (st [(1, 5)] []) (.jslt32Imm 1 0xffffffff 1) [(1, 5)] [] 1 &&
  gives (st [(1, 0xffffffff), (2, 0)] []) (.jsle32Reg 1 2 1) [(1, 0xffffffff), (2, 0)] [] 2 &&
  gives { st [(1, 0xaaaaaaaa00000006), (2, 0x5555555500000005)] [] with pc := 10 } (.jgt32Reg 1 2 3) [(1, 0xaaaaaaaa00000006), (2, 0x5555555500000005)] [] 14 &&
  gives { st [(1, 0xaaaaaaaa00000005)] [] with pc := 10 } (.jge32Imm 1 5 3) [(1, 0xaaaaaaaa00000005)] [] 14 &&
  gives { st [(1, 0xaaaaaaaa00000006), (2, 0x5555555500000002)] [] with pc := 10 } (.jset32Reg 1 2 3) [(1, 0xaaaaaaaa00000006), (2, 0x5555555500000002)] [] 14 &&
  gives { st [(1, 0xaaaaaaaa00000005)] [] with pc := 10 } (.jne32Imm 1 6 3) [(1, 0xaaaaaaaa00000005)] [] 14) = true := by decide

theorem test_jump32_vectors_c : (
  gives { st [(1, 0xaaaaaaaa00000001), (2, 0x55555555ffffffff)] [] with pc := 10 } (.jsgt32Reg 1 2 3) [(1, 0xaaaaaaaa00000001), (2, 0x55555555ffffffff)] [] 14 &&
  gives { st [(1, 0xaaaaaaaaffffffff)] [] with pc := 10 } (.jsge32Imm 1 0xffffffff 3) [(1, 0xaaaaaaaaffffffff)] [] 14 &&
  gives { st [(1, 0xaaaaaaaa00000004), (2, 0x5555555500000005)] [] with pc := 10 } (.jlt32Reg 1 2 3) [(1, 0xaaaaaaaa00000004), (2, 0x5555555500000005)] [] 14 &&
  gives { st [(1, 0xaaaaaaaa00000005), (2, 0x5555555500000005)] [] with pc := 10 } (.jle32Reg 1 2 3) [(1, 0xaaaaaaaa00000005), (2, 0x5555555500000005)] [] 14 &&
  gives { st [(1, 0xaaaaaaaaffffffff), (2, 0x5555555500000000)] [] with pc := 10 } (.jslt32Reg 1 2 3) [(1, 0xaaaaaaaaffffffff), (2, 0x5555555500000000)] [] 14 &&
  gives { st [(1, 0xaaaaaaaaffffffff)] [] with pc := 10 } (.jsle32Imm 1 0xffffffff 3) [(1, 0xaaaaaaaaffffffff)] [] 14) = true := by decide

theorem test_load_store_vectors_a : (
  gives (st [] [(0xfff8, 0x88), (0xfff9, 0x77), (0xfffa, 0x66), (0xfffb, 0x55), (0xfffc, 0x44), (0xfffd, 0x33), (0xfffe, 0x22), (0xffff, 0x11)]) (.ldxb 1 0xa 0xffff) [(1, 0x11)] [(0xfff8, 0x88), (0xfff9, 0x77), (0xfffa, 0x66), (0xfffb, 0x55), (0xfffc, 0x44), (0xfffd, 0x33), (0xfffe, 0x22), (0xffff, 0x11)] 1 &&
  gives (big (st [] [(0xfff8, 0x88), (0xfff9, 0x77), (0xfffa, 0x66), (0xfffb, 0x55), (0xfffc, 0x44), (0xfffd, 0x33), (0xfffe, 0x22), (0xffff, 0x11)])) (.ldxb 1 0xa 0xffff) [(1, 0x11)] [(0xfff8, 0x88), (0xfff9, 0x77), (0xfffa, 0x66), (0xfffb, 0x55), (0xfffc, 0x44), (0xfffd, 0x33), (0xfffe, 0x22), (0xffff, 0x11)] 1 &&
  gives (st [] [(0xfff8, 0x88), (0xfff9, 0x77), (0xfffa, 0x66), (0xfffb, 0x55), (0xfffc, 0x44), (0xfffd, 0x33), (0xfffe, 0x22), (0xffff, 0x11)]) (.ldxh 1 0xa 0xfffe) [(1, 0x1122)] [(0xfff8, 0x88), (0xfff9, 0x77), (0xfffa, 0x66), (0xfffb, 0x55), (0xfffc, 0x44), (0xfffd, 0x33), (0xfffe, 0x22), (0xffff, 0x11)] 1 &&
  gives (big (st [] [(0xfff8, 0x88), (0xfff9, 0x77), (0xfffa, 0x66), (0xfffb, 0x55), (0xfffc, 0x44), (0xfffd, 0x33), (0xfffe, 0x22), (0xffff, 0x11)])) (.ldxh 1 0xa 0xfffe) [(1, 0x2211)] [(0xfff8, 0x88), (0xfff9, 0x77), (0xfffa, 0x66), (0xfffb, 0x55), (0xfffc, 0x44), (0xfffd, 0x33), (0xfffe, 0x22), (0xffff, 0x11)] 1 &&
  gives (st [] [(0xfff8, 0x88), (0xfff9, 0x77), (0xfffa, 0x66), (0xfffb, 0x55), (0xfffc, 0x44), (0xfffd, 0x33), (0xfffe, 0x22), (0xffff, 0x11)]) (.ldxw 1 0xa 0xfffc) [(1, 0x11223344)] [(0xfff8, 0x88), (0xfff9, 0x77), (0xfffa, 0x66), (0xfffb, 0x55), (0xfffc, 0x44), (0xfffd, 0x33), (0xfffe, 0x22), (0xffff, 0x11)] 1 &&
  gives (big (st [] [(0xfff8, 0x88), (0xfff9, 0x77), (0xfffa, 0x66), (0xfffb, 0x55), (0xfffc, 0x44), (0xfffd, 0x33), (0xfffe, 0x22), (0xffff, 0x11)])) (.ldxw 1 0xa 0xfffc) [(1, 0x44332211)] [(0xfff8, 0x88), (0xfff9, 0x77), (0xfffa, 0x66), (0xfffb, 0x55), (0xfffc, 0x44), (0xfffd, 0x33), (0xfffe, 0x22), (0xffff, 0x11)] 1 &&
  gives (st [] [(0xfff8, 0x88), (0xfff9, 0x77), (0xfffa, 0x66), (0xfffb, 0x55), (0xfffc, 0x44), (0xfffd, 0x33), (0xfffe, 0x22), (0xffff, 0x11)]) (.ldxdw 1 0xa 0xfff8) [(1, 0x1122334455667788)] [(0xfff8, 0x88), (0xfff9, 0x77), (0xfffa, 0x66), (0xfffb, 0x55), (0xfffc, 0x44), (0xfffd, 0x33), (0xfffe, 0x22), (0xffff, 0x11)] 1 &&
  gives (big (st [] [(0xfff8, 0x88), (0xfff9, 0x77), (0xfffa, 0x66), (0xfffb, 0x55), (0xfffc, 0x44), (0xfffd, 0x33), (0xfffe, 0x22), (0xffff, 0x11)])) (.ldxdw 1 0xa 0xfff8) [(1, 0x8877665544332211)] [(0xfff8, 0x88), (0xfff9, 0x77), (0xfffa, 0x66), (0xfffb, 0x55), (0xfffc, 0x44), (0xfffd, 0x33), (0xfffe, 0x22), (0xffff, 0x11)] 1) = true := by decide

theorem test_load_store_vectors_b : (
  gives (st [(1, 0xfff8)] [(0xfff8, 0x00), (0xfff9, 0x00), (0xfffa, 0x00), (0xfffb, 0x00), (0xfffc, 0xff), (0xfffd, 0xff), (0xfffe, 0xff), (0xffff, 0xff)]) (.ldxw 1 1 4) [(1, 0xffffffff)] [(0xfff8, 0x00), (0xfff9, 0x00), (0xfffa, 0x00), (0xfffb, 0x00), (0xfffc, 0xff), (0xfffd, 0xff), (0xfffe, 0xff), (0xffff, 0xff)] 1 &&
  gives (st [(1, 0x1234)] [(0xfff8, 0x00), (0xfff9, 0x00), (0xfffa, 0x00), (0xfffb, 0x00), (0xfffc, 0x00), (0xfffd, 0x00), (0xfffe, 0x00), (0xffff, 0x00)]) (.stxb 0xa 0xfff8 1) [(1, 0x1234)] [(0xfff8, 0x34), (0xfff9, 0x00), (0xfffa, 0x00), (0xfffb, 0x00), (0xfffc, 0x00), (0xfffd, 0x00), (0xfffe, 0x00), (0xffff, 0x00)] 1 &&
  gives (big (st [(1, 0x1234)] [(0xfff8, 0x00), (0xfff9, 0x00), (0xfffa, 0x00), (0xfffb, 0x00), (0xfffc, 0x00), (0xfffd, 0x00), (0xfffe, 0x00), (0xffff, 0x00)])) (.stxb 0xa 0xfff8 1) [(1, 0x1234)] [(0xfff8, 0x34), (0xfff9, 0x00), (0xfffa, 0x00), (0xfffb, 0x00), (0xfffc, 0x00), (0xfffd, 0x00), (0xfffe, 0x00), (0xffff, 0x00)] 1 &&
  gives (st [(1, 0x12345678)] [(0xfff8, 0x00), (0xfff9, 0x00), (0xfffa, 0x00), (0xfffb, 0x00), (0xfffc, 0x00), (0xfffd, 0x00), (0xfffe, 0x00), (0xffff, 0x00)]) (.stxh 0xa 0xfff8 1) [(1, 0x12345678)] [(0xfff8, 0x78), (0xfff9, 0x56), (0xfffa, 0x00), (0xfffb, 0x00), (0xfffc, 0x00), (0xfffd, 0x00), (0xfffe, 0x00), (0xffff, 0x00)] 1 &&
  gives (big (st [(1, 0x12345678)] [(0xfff8, 0x00), (0xfff9, 0x00), (0xfffa, 0x00), (0xfffb, 0x00), (0xfffc, 0x00), (0xfffd, 0x00), (0xfffe, 0x00), (0xffff, 0x00)])) (.stxh 0xa 0xfff8 1) [(1, 0x12345678)] [(0xfff8, 0x56), (0xfff9, 0x78), (0xfffa, 0x00), (0xfffb, 0x00), (0xfffc, 0x00), (0xfffd, 0x00), (0xfffe, 0x00), (0xffff, 0x00)] 1 &&
  gives (st [(1, 0x1122334455667788)] [(0xfff8, 0x00), (0xfff9, 0x00), (0xfffa, 0x00), (0xfffb, 0x00), (0xfffc, 0x00), (0xfffd, 0x00), (0xfffe, 0x00), (0xffff, 0x00)]) (.stxw 0xa 0xfff8 1) [(1, 0x1122334455667788)] [(0xfff8, 0x88), (0xfff9, 0x77), (0xfffa, 0x66), (0xfffb, 0x55), (0xfffc, 0x00), (0xfffd, 0x00), (0xfffe, 0x00), (0xffff, 0x00)] 1 &&
  gives (big (st [(1, 0x1122334455667788)] [(0xfff8, 0x00), (0xfff9, 0x00), (0xfffa, 0x00), (0xfffb, 0x00), (0xfffc, 0x00), (0xfffd, 0x00), (0xfffe, 0x00), (0xffff, 0x00)])) (.stxw 0xa 0xfff8 1) [(1, 0x1122334455667788)] [(0xfff8, 0x55), (0xfff9, 0x66), (0xfffa, 0x77), (0xfffb, 0x88), (0xfffc, 0x00), (0xfffd, 0x00), (0xfffe, 0x00), (0xffff, 0x00)] 1 &&
  gives (st [(1, 0x1122334455667788)] [(0xfff8, 0x00), (0xfff9, 0x00), (0xfffa, 0x00), (0xfffb, 0x00), (0xfffc, 0x00), (0xfffd, 0x00), (0xfffe, 0x00), (0xffff, 0x00)]) (.stxdw 0xa 0xfff8 1) [(1, 0x1122334455667788)] [(0xfff8, 0x88), (0xfff9, 0x77), (0xfffa, 0x66), (0xfffb, 0x55), (0xfffc, 0x44), (0xfffd, 0x33), (0xfffe, 0x22), (0xffff, 0x11)] 1) = true := by decide

theorem test_load_store_vectors_c : (
  gives (big (st [(1, 0x1122334455667788)] [(0xfff8, 0x00), (0xfff9, 0x00), (0xfffa, 0x00), (0xfffb, 0x00), (0xfffc, 0x00), (0xfffd, 0x00), (0xfffe, 0x00), (0xffff, 0x00)])) (.stxdw 0xa 0xfff8 1) [(1, 0x1122334455667788)] [(0xfff8, 0x11), (0xfff9, 0x22), (0xfffa, 0x33), (0xfffb, 0x44), (0xfffc, 0x55), (0xfffd, 0x66), (0xfffe, 0x77), (0xffff, 0x88)] 1 &&
  gives (st [] [(0xfff8, 0x00), (0xfff9, 0x00), (0xfffa, 0x00), (0xfffb, 0x00), (0xfffc, 0x00), (0xfffd, 0x00), (0xfffe, 0x00), (0xffff, 0x00)]) (.stb 0xa 0xfff8 0x1ff) [] [(0xfff8, 0xff), (0xfff9, 0x00), (0xfffa, 0x00), (0xfffb, 0x00), (0xfffc, 0x00), (0xfffd, 0x00), (0xfffe, 0x00), (0xffff, 0x00)] 1 &&
  gives (st [] [(0xfff8, 0x00), (0xfff9, 0x00), (0xfffa, 0x00), (0xfffb, 0x00), (0xfffc, 0x00), (0xfffd, 0x00), (0xfffe, 0x00), (0xffff, 0x00)]) (.sth 0xa 0xfff8 0xfffffffe) [] [(0xfff8, 0xfe), (0xfff9, 0xff), (0xfffa, 0x00), (0xfffb, 0x00), (0xfffc, 0x00), (0xfffd, 0x00), (0xfffe, 0x00), (0xffff, 0x00)] 1 &&
  gives (big (st [] [(0xfff8, 0x00), (0xfff9, 0x00), (0xfffa, 0x00), (0xfffb, 0x00), (0xfffc, 0x00), (0xfffd, 0x00), (0xfffe, 0x00), (0xffff, 0x00)])) (.sth 0xa 0xfff8 0xfffffffe) [] [(0xfff8, 0xff), (0xfff9, 0xfe), (0xfffa, 0x00), (0xfffb, 0x00), (0xfffc, 0x00), (0xfffd, 0x00), (0xfffe, 0x00), (0xffff, 0x00)] 1 &&
  gives (st [] [(0xfff8, 0x00), (0xfff9, 0x00), (0xfffa, 0x00), (0xfffb, 0x00), (0xfffc, 0x00), (0xfffd, 0x00), (0xfffe, 0x00), (0xffff, 0x00)]) (.stw 0xa 0xfff8 0x11223344) [] [(0xfff8, 0x44), (0xfff9, 0x33), (0xfffa, 0x22), (0xfffb, 0x11), (0xfffc, 0x00), (0xfffd, 0x00), (0xfffe, 0x00), (0xffff, 0x00)] 1 &&
  gives (big (st [] [(0xfff8, 0x00), (0xfff9, 0x00), (0xfffa, 0x00), (0xfffb, 0x00), (0xfffc, 0x00), (0xfffd, 0x00), (0xfffe, 0x00), (0xffff, 0x00)])) (.stw 0xa 0xfff8 0x11223344) [] [(0xfff8, 0x11), (0xfff9, 0x22), (0xfffa, 0x33), (0xfffb, 0x44), (0xfffc, 0x00), (0xfffd, 0x00), (0xfffe, 0x00), (0xffff, 0x00)] 1 &&
  gives (st [] [(0xfff8, 0x00), (0xfff9, 0x00), (0xfffa, 0x00), (0xfffb, 0x00), (0xfffc, 0x00), (0xfffd, 0x00), (0xfffe, 0x00), (0xffff, 0x00)]) (.stdw 0xa 0xfff8 0xfffffffe) [] [(0xfff8, 0xfe), (0xfff9, 0xff), (0xfffa, 0xff), (0xfffb, 0xff), (0xfffc, 0xff), (0xfffd, 0xff), (0xfffe, 0xff), (0xffff, 0xff)] 1 &&
  gives (big (st [] [(0xfff8, 0x00), (0xfff9, 0x00), (0xfffa, 0x00), (0xfffb, 0x00), (0xfffc, 0x00), (0xfffd, 0x00), (0xfffe, 0x00), (0xffff, 0x00)])) (.stdw 0xa 0xfff8 0xfffffffe) [] [(0xfff8, 0xff), (0xfff9, 0xff), (0xfffa, 0xff), (0xfffb, 0xff), (0xfffc, 0xff), (0xfffd, 0xff), (0xfffe, 0xff), (0xffff, 0xfe)] 1) = true := by decide

theorem test_load_store_vectors_d : (
  gives (st [] [(0xfff8, 0x00), (0xfff9, 0x00), (0xfffa, 0x00), (0xfffb, 0x00), (0xfffc, 0x00), (0xfffd, 0x00), (0xfffe, 0x00), (0xffff, 0x00)]) (.stdw 0xa 0xfff8 0x7fffffff) [] [(0xfff8, 0xff), (0xfff9, 0xff), (0xfffa, 0xff), (0xfffb, 0x7f), (0xfffc, 0x00), (0xfffd, 0x00), (0xfffe, 0x00), (0xffff, 0x00)] 1 &&
  gives (st [] [(0xfff8, 0x00), (0xfff9, 0x00), (0xfffa, 0x00), (0xfffb, 0x00), (0xfffc, 0x00), (0xfffd, 0x00), (0xfffe, 0x00), (0xffff, 0x00)]) (.stxdw 0xa 0xfff8 0xa) [] [(0xfff8, 0x00), (0xfff9, 0x00), (0xfffa, 0x01), (0xfffb, 0x00), (0xfffc, 0x00), (0xfffd, 0x00), (0xfffe, 0x00), (0xffff, 0x00)] 1 &&
  traps (st [] [(0xfff8, 0x88), (0xfff9, 0x77), (0xfffa, 0x66), (0xfffb, 0x55), (0xfffc, 0x44), (0xfffd, 0x33), (0xfffe, 0x22), (0xffff, 0x11)]) (.ldxw 1 0xa 0xfffd) (.misaligned 0xfffd) &&
  traps (loose (st [] [(0xfff8, 0x88), (0xfff9, 0x77), (0xfffa, 0x66), (0xfffb, 0x55), (0xfffc, 0x44), (0xfffd, 0x33), (0xfffe, 0x22), (0xffff, 0x11)])) (.ldxw 1 0xa 0xfffd) (.memAccess 0xfffd) &&
  gives (loose (st [] [(0xfff8, 0x88), (0xfff9, 0x77), (0xfffa, 0x66), (0xfffb, 0x55), (0xfffc, 0x44), (0xfffd, 0x33), (0xfffe, 0x22), (0xffff, 0x11)])) (.ldxh 1 0xa 0xfffd) [(1, 0x2233)] [(0xfff8, 0x88), (0xfff9, 0x77), (0xfffa, 0x66), (0xfffb, 0x55), (0xfffc, 0x44), (0xfffd, 0x33), (0xfffe, 0x22), (0xffff, 0x11)] 1 &&
  traps (st [(1, 0)] []) (.stxdw 0xa 0 1) (.memAccess 0x10000) &&
  traps (st [] []) (.ldxb 1 0xa 0xfdff) (.memAccess 0xfdff) &&
  traps (st [(2, 0)] []) (.ldxb 1 2 0) (.memAccess 0x0)) = true := by decide

theorem test_load_store_vectors_e : (
  traps (st [(2, 0xfffffffffffffff8)] []) (.ldxdw 1 2 0x10) (.memAccess 0x8) &&
  traps (st [] []) (.ldxdw 1 2 0) (.uninitRegister 2) &&
  traps (st [] []) (.stxw 0xa 0xfffc 3) (.uninitRegister 3)) = true := by decide

theorem test_atomic_vectors_a : (
  gives (st [(1, 0x20)] [(0xfff8, 0xf0), (0xfff9, 0xff), (0xfffa, 0xff), (0xfffb, 0xff), (0xfffc, 0x01), (0xfffd, 0x00), (0xfffe, 0x00), (0xffff, 0x00)]) (.atomicAdd64 0xa 0xfff8 1) [(1, 0x20)] [(0xfff8, 0x10), (0xfff9, 0x00), (0xfffa, 0x00), (0xfffb, 0x00), (0xfffc, 0x02), (0xfffd, 0x00), (0xfffe, 0x00), (0xffff, 0x00)] 1 &&
  gives (st [(1, 0x20)] [(0xfff8, 0xf0), (0xfff9, 0xff), (0xfffa, 0xff), (0xfffb, 0xff), (0xfffc, 0x01), (0xfffd, 0x00), (0xfffe, 0x00), (0xffff, 0x00)]) (.atomicAdd32 0xa 0xfff8 1) [(1, 0x20)] [(0xfff8, 0x10), (0xfff9, 0x00), (0xfffa, 0x00), (0xfffb, 0x00), (0xfffc, 0x01), (0xfffd, 0x00), (0xfffe, 0x00), (0xffff, 0x00)] 1 &&
  gives (st [(1, 0x20)] [(0xfff8, 0xf0), (0xfff9, 0xff), (0xfffa, 0xff), (0xfffb, 0xff), (0xfffc, 0x01), (0xfffd, 0x00), (0xfffe, 0x00), (0xffff, 0x00)]) (.atomicFetchAdd64 0xa 0xfff8 1) [(1, 0x1fffffff0)] [(0xfff8, 0x10), (0xfff9, 0x00), (0xfffa, 0x00), (0xfffb, 0x00), (0xfffc, 0x02), (0xfffd, 0x00), (0xfffe, 0x00), (0xffff, 0x00)] 1 &&
  gives (st [(1, 0xaaaaaaaa00000020)] [(0xfff8, 0xf0), (0xfff9, 0xff), (0xfffa, 0xff), (0xfffb, 0xff), (0xfffc, 0x01), (0xfffd, 0x00), (0xfffe, 0x00), (0xffff, 0x00)]) (.atomicFetchAdd32 0xa 0xfff8 1) [(1, 0xfffffff0)] [(0xfff8, 0x10), (0xfff9, 0x00), (0xfffa, 0x00), (0xfffb, 0x00), (0xfffc, 0x01), (0xfffd, 0x00), (0xfffe, 0x00), (0xffff, 0x00)] 1 &&
  gives (st [(1, 0xf00000000000000f)] [(0xfff8, 0xf0), (0xfff9, 0xff), (0xfffa, 0xff), (0xfffb, 0xff), (0xfffc, 0x01), (0xfffd, 0x00), (0xfffe, 0x00), (0xffff, 0x00)]) (.atomicOr64 0xa 0xfff8 1) [(1, 0xf00000000000000f)] [(0xfff8, 0xff), (0xfff9, 0xff), (0xfffa, 0xff), (0xfffb, 0xff), (0xfffc, 0x01), (0xfffd, 0x00), (0xfffe, 0x00), (0xffff, 0xf0)] 1 &&
  gives (st [(1, 0xf)] [(0xfff8, 0xf0), (0xfff9, 0xff), (0xfffa, 0xff), (0xfffb, 0xff), (0xfffc, 0x01), (0xfffd, 0x00), (0xfffe, 0x00), (0xffff, 0x00)]) (.atomicFetchOr32 0xa 0xfff8 1) [(1, 0xfffffff0)] [(0xfff8, 0xff), (0xfff9, 0xff), (0xfffa, 0xff), (0xfffb, 0xff), (0xfffc, 0x01), (0xfffd, 0x00), (0xfffe, 0x00), (0xffff, 0x00)] 1 &&
  gives (st [(1, 0xff)] [(0xfff8, 0xf0), (0xfff9, 0xff), (0xfffa, 0xff), (0xfffb, 0xff), (0xfffc, 0x01), (0xfffd, 0x00), (0xfffe, 0x00), (0xffff, 0x00)]) (.atomicAnd64 0xa 0xfff8 1) [(1, 0xff)] [(0xfff8, 0xf0), (0xfff9, 0x00), (0xfffa, 0x00), (0xfffb, 0x00), (0xfffc, 0x00), (0xfffd, 0x00), (0xfffe, 0x00), (0xffff, 0x00)] 1 &&
  gives (st [(1, 0xff)] [(0xfff8, 0xf0), (0xfff9, 0xff), (0xfffa, 0xff), (0xfffb, 0xff), (0xfffc, 0x01), (0xfffd, 0x00), (0xfffe, 0x00), (0xffff, 0x00)]) (.atomicFetchAnd32 0xa 0xfff8 1) [(1, 0xfffffff0)] [(0xfff8, 0xf0), (0xfff9, 0x00), (0xfffa, 0x00), (0xfffb, 0x00), (0xfffc, 0x01), (0xfffd, 0x00), (0xfffe, 0x00), (0xffff, 0x00)] 1) = true := by decide

theorem test_atomic_vectors_b : (
  gives (st [(1, 0xffffffffffffffff)] [(0xfff8, 0xf0), (0xfff9, 0xff), (0xfffa, 0xff), (0xfffb, 0xff), (0xfffc, 0x01), (0xfffd, 0x00), (0xfffe, 0x00), (0xffff, 0x00)]) (.atomicXor64 0xa 0xfff8 1) [(1, 0xffffffffffffffff)] [(0xfff8, 0x0f), (0xfff9, 0x00), (0xfffa, 0x00), (0xfffb, 0x00), (0xfffc, 0xfe), (0xfffd, 0xff), (0xfffe, 0xff), (0xffff, 0xff)] 1 &&
  gives (st [(1, 0xffffffffffffffff)] [(0xfff8, 0xf0), (0xfff9, 0xff), (0xfffa, 0xff), (0xfffb, 0xff), (0xfffc, 0x01), (0xfffd, 0x00), (0xfffe, 0x00), (0xffff, 0x00)]) (.atomicFetchXor32 0xa 0xfff8 1) [(1, 0xfffffff0)] [(0xfff8, 0x0f), (0xfff9, 0x00), (0xfffa, 0x00), (0xfffb, 0x00), (0xfffc, 0x01), (0xfffd, 0x00), (0xfffe, 0x00), (0xffff, 0x00)] 1 &&
  gives (st [(1, 0x1122334455667788)] [(0xfff8, 0xf0), (0xfff9, 0xff), (0xfffa, 0xff), (0xfffb, 0xff), (0xfffc, 0x01), (0xfffd, 0x00), (0xfffe, 0x00), (0xffff, 0x00)]) (.atomicXchg64 0xa 0xfff8 1) [(1, 0x1fffffff0)] [(0xfff8, 0x88), (0xfff9, 0x77), (0xfffa, 0x66), (0xfffb, 0x55), (0xfffc, 0x44), (0xfffd, 0x33), (0xfffe, 0x22), (0xffff, 0x11)] 1 &&
  gives (st [(1, 0x1122334455667788)] [(0xfff8, 0xf0), (0xfff9, 0xff), (0xfffa, 0xff), (0xfffb, 0xff), (0xfffc, 0x01), (0xfffd, 0x00), (0xfffe, 0x00), (0xffff, 0x00)]) (.atomicXchg32 0xa 0xfff8 1) [(1, 0xfffffff0)] [(0xfff8, 0x88), (0xfff9, 0x77), (0xfffa, 0x66), (0xfffb, 0x55), (0xfffc, 0x01), (0xfffd, 0x00), (0xfffe, 0x00), (0xffff, 0x00)] 1 &&
  gives (big (st [(1, 0x1122334455667788)] [(0xfff8, 0xf0), (0xfff9, 0xff), (0xfffa, 0xff), (0xfffb, 0xff), (0xfffc, 0x01), (0xfffd, 0x00), (0xfffe, 0x00), (0xffff, 0x00)])) (.atomicXchg32 0xa 0xfff8 1) [(1, 0xf0ffffff)] [(0xfff8, 0x55), (0xfff9, 0x66), (0xfffa, 0x77), (0xfffb, 0x88), (0xfffc, 0x01), (0xfffd, 0x00), (0xfffe, 0x00), (0xffff, 0x00)] 1 &&
  gives (st [(0, 0x1fffffff0), (1, 5)] [(0xfff8, 0xf0), (0xfff9, 0xff), (0xfffa, 0xff), (0xfffb, 0xff), (0xfffc, 0x01), (0xfffd, 0x00), (0xfffe, 0x00), (0xffff, 0x00)]) (.atomicCmpxchg64 0xa 0xfff8 1) [(0, 0x1fffffff0), (1, 5)] [(0xfff8, 0x05), (0xfff9, 0x00), (0xfffa, 0x00), (0xfffb, 0x00), (0xfffc, 0x00), (0xfffd, 0x00), (0xfffe, 0x00), (0xffff, 0x00)] 1 &&
  gives (st [(0, 0), (1, 5)] [(0xfff8, 0xf0), (0xfff9, 0xff), (0xfffa, 0xff), (0xfffb, 0xff), (0xfffc, 0x01), (0xfffd, 0x00), (0xfffe, 0x00), (0xffff, 0x00)]) (.atomicCmpxchg64 0xa 0xfff8 1) [(0, 0x1fffffff0), (1, 5)] [(0xfff8, 0xf0), (0xfff9, 0xff), (0xfffa, 0xff), (0xfffb, 0xff), (0xfffc, 0x01), (0xfffd, 0x00), (0xfffe, 0x00), (0xffff, 0x00)] 1 &&
  gives (st [(0, 0xdeadbeeffffffff0), (1, 5)] [(0xfff8, 0xf0), (0xfff9, 0xff), (0xfffa, 0xff), (0xfffb, 0xff), (0xfffc, 0x01), (0xfffd, 0x00), (0xfffe, 0x00), (0xffff, 0x00)]) (.atomicCmpxchg32 0xa 0xfff8 1) [(0, 0xfffffff0), (1, 5)] [(0xfff8, 0x05), (0xfff9, 0x00), (0xfffa, 0x00), (0xfffb, 0x00), (0xfffc, 0x01), (0xfffd, 0x00), (0xfffe, 0x00), (0xffff, 0x00)] 1) = true := by decide

theorem test_atomic_vectors_c : (
  gives (st [(0, 1), (1, 5)] [(0xfff8, 0xf0), (0xfff9, 0xff), (0xfffa, 0xff), (0xfffb, 0xff), (0xfffc, 0x01), (0xfffd, 0x00), (0xfffe, 0x00), (0xffff, 0x00)]) (.atomicCmpxchg32 0xa 0xfff8 1) [(0, 0xfffffff0), (1, 5)] [(0xfff8, 0xf0), (0xfff9, 0xff), (0xfffa, 0xff), (0xfffb, 0xff), (0xfffc, 0x01), (0xfffd, 0x00), (0xfffe, 0x00), (0xffff, 0x00)] 1 &&
  gives (st [(1, 0xfff8)] [(0xfff8, 0x10), (0xfff9, 0x00), (0xfffa, 0x00), (0xfffb, 0x00), (0xfffc, 0x00), (0xfffd, 0x00), (0xfffe, 0x00), (0xffff, 0x00)]) (.atomicFetchAdd64 1 0 1) [(1, 0x10)] [(0xfff8, 0x08), (0xfff9, 0x00), (0xfffa, 0x01), (0xfffb, 0x00), (0xfffc, 0x00), (0xfffd, 0x00), (0xfffe, 0x00), (0xffff, 0x00)] 1 &&
  traps (st [(1, 1)] [(0xfff8, 0x00), (0xfff9, 0x00), (0xfffa, 0x00), (0xfffb, 0x00), (0xfffc, 0x00), (0xfffd, 0x00), (0xfffe, 0x00), (0xffff, 0x00)]) (.atomicAdd32 0xa 0xfffa 1) (.misaligned 0xfffa) &&
  traps (st [(1, 1)] [(0xfff8, 0x00), (0xfff9, 0x00), (0xfffa, 0x00), (0xfffb, 0x00), (0xfffc, 0x00), (0xfffd, 0x00), (0xfffe, 0x00), (0xffff, 0x00)]) (.atomicAdd64 0xa 0xfffc 1) (.misaligned 0xfffc) &&
  traps (st [(1, 1)] []) (.atomicAdd64 0xa 0 1) (.memAccess 0x10000) &&
  traps (st [(1, 5)] [(0xfff8, 0x00), (0xfff9, 0x00), (0xfffa, 0x00), (0xfffb, 0x00), (0xfffc, 0x00), (0xfffd, 0x00), (0xfffe, 0x00), (0xffff, 0x00)]) (.atomicCmpxchg64 0xa 0xfff8 1) (.uninitRegister 0) &&
  traps (st [] [(0xfff8, 0x00), (0xfff9, 0x00), (0xfffa, 0x00), (0xfffb, 0x00), (0xfffc, 0x00), (0xfffd, 0x00), (0xfffe, 0x00), (0xffff, 0x00)]) (.atomicAdd64 0xa 0xfff8 1) (.uninitRegister 1)) = true := by decide

/-! The atomic operations the vectors leave out, by the rules R330, R332, R334, R341, R343, R345 on R322 and R323. -/

theorem test_atomic_others : (
  gives (st [(1, 0x0f)] [(0xfff8, 0x31), (0xfff9, 0), (0xfffa, 0), (0xfffb, 0x80)]) (.atomicOr32 10 0xfff8 1) [(1, 0x0f)]
    [(0xfff8, 0x3f), (0xfff9, 0), (0xfffa, 0), (0xfffb, 0x80)] 1 &&
  gives (st [(1, 0x0f)] [(0xfff8, 0x31), (0xfff9, 0), (0xfffa, 0), (0xfffb, 0x80)]) (.atomicAnd32 10 0xfff8 1) [(1, 0x0f)]
    [(0xfff8, 0x01), (0xfff9, 0), (0xfffa, 0), (0xfffb, 0)] 1 &&
  gives (st [(1, 0x0f)] [(0xfff8, 0x31), (0xfff9, 0), (0xfffa, 0), (0xfffb, 0x80)]) (.atomicXor32 10 0xfff8 1) [(1, 0x0f)]
    [(0xfff8, 0x3e), (0xfff9, 0), (0xfffa, 0), (0xfffb, 0x80)] 1 &&
  gives (st [(1, 0x0f)] [(0xfff8, 0x31), (0xfff9, 0), (0xfffa, 0), (0xfffb, 0), (0xfffc, 0), (0xfffd, 0), (0xfffe, 0), (0xffff, 0x80)])
    (.atomicFetchOr64 10 0xfff8 1) [(1, 0x8000000000000031)]
    [(0xfff8, 0x3f), (0xfff9, 0), (0xfffa, 0), (0xfffb, 0), (0xfffc, 0), (0xfffd, 0), (0xfffe, 0), (0xffff, 0x80)] 1 &&
  gives (st [(1, 0x0f)] [(0xfff8, 0x31), (0xfff9, 0), (0xfffa, 0), (0xfffb, 0), (0xfffc, 0), (0xfffd, 0), (0xfffe, 0), (0xffff, 0x80)])
    (.atomicFetchAnd64 10 0xfff8 1) [(1, 0x8000000000000031)]
    [(0xfff8, 0x01), (0xfff9, 0), (0xfffa, 0), (0xfffb, 0), (0xfffc, 0), (0xfffd, 0), (0xfffe, 0), (0xffff, 0)] 1 &&
  gives (st [(1, 0x0f)] [(0xfff8, 0x31), (0xfff9, 0), (0xfffa, 0), (0xfffb, 0), (0xfffc, 0), (0xfffd, 0), (0xfffe, 0), (0xffff, 0x80)])
    (.atomicFetchXor64 10 0xfff8 1) [(1, 0x8000000000000031)]
    [(0xfff8, 0x3e), (0xfff9, 0), (0xfffa, 0), (0xfffb, 0), (0xfffc, 0), (0xfffd, 0), (0xfffe, 0), (0xffff, 0x80)] 1) = true := by
  decide

/-! ## Calls, exit, wide loads, legacy loads -/

/-- `st` in another configuration. -/
def stc (cfg : Config) (rs : List (Reg × Word)) (m : Memory) : State := { st rs m with cfg := cfg }

/-- The instruction answers a running next state: its slot, its depth, some registers, the registers undefined in it. -/
def enters (s : State) (i : Instr) (pc depth : Nat) (rs : List (Reg × Word)) (undef : List Reg) : Bool :=
  match exec i s with
  | .next t => decide (t.status = .running) && t.pc == pc && t.frames.length == depth &&
      (rs.all fun p => decide (t.reg p.1 = ⟨p.2, true⟩)) && undef.all fun r => !(t.reg r).defd
  | _ => false

/-- The instruction is refused, with this reason. -/
def stops (s : State) (i : Instr) (r : Refusal) : Bool :=
  match exec i s with
  | .refused q => decide (q = r)
  | _ => false

/-- The spec's vectors C1, C3, C4, C5 (spec/95_test_vectors.md 2.7). -/
theorem test_call_helper : (
  enters (stc cfgW [(1, 40), (2, 2), (5, 9), (6, 7)] []) (.callHelper 1) 1 0 [(0, 42), (6, 7), (10, 0x10000)] [1, 2, 3, 4, 5] &&
  traps (stc cfgW [(1, 40), (6, 7)] []) (.callHelper 1) (.uninitRegister 2) &&
  enters (stc cfgW [(0, 1), (1, 40), (2, 2), (6, 7)] []) (.callHelper 2) 1 0 [(6, 7)] [0, 1, 2, 3, 4, 5] &&
  stops (stc cfgW [(1, 40), (2, 2)] []) (.callHelper 3) (.unknownHelper 0)) = true := by decide

/-- R277, R278: the platform's numbering space; the byte outside every writable region is not written; a helper's fault. -/
theorem test_call_platform : (
  enters (stc cfgW [(1, 0xfff8), (6, 7)] []) (.callPlatform 9) 1 0 [(0, 1), (6, 7)] [1] &&
  (match exec (.callPlatform 9) (stc cfgW [(1, 0xfff8)] []) with
    | .next t => decide (t.mem = [(0xfff8, 0x77)])
    | _ => false) &&
  traps (stc cfgW [(1, 0)] []) (.callPlatform 9) (.helperFault 3) &&
  stops (stc cfgW [(1, 0)] []) (.callPlatform 1) (.unknownHelper 0)) = true := by decide

/-- R278: a case depends on the contents of memory, and may list several outcomes. -/
theorem test_helper_case :
    (stc cfgW [] [(0xfff8, 5)]).helperCase? helper1 [41, 2] = some ⟨[41, 2], [(0xfff8, 5)], .ret (some 1) [], [.fault 4]⟩ ∧
    (stc cfgW [] [(0xfff8, 6)]).helperCase? helper1 [41, 2] = none ∧
    HelperCase.pick ⟨[41, 2], [(0xfff8, 5)], .ret (some 1) [], [.fault 4]⟩ 0 = .fault 4 ∧
    HelperCase.pick ⟨[41, 2], [(0xfff8, 5)], .ret (some 1) [], [.fault 4]⟩ 1 = .ret (some 1) [] := by decide

/-- The spec's vectors C7 and C8. -/
theorem test_call_local : (
  enters (st [(0, 3), (1, 40), (6, 7)] []) (.callLocal 2 0) 3 1 [(1, 40), (10, 0xfe00)] [0, 2, 5, 6] &&
  traps (stc { Config.testVectors with calleeFrames := [] } [(0, 3)] []) (.callLocal 2 0) (.callDepth 0)) = true := by decide

/-- A record as the call of `test_call_local` leaves it. -/
def rec1 : CallRecord := ⟨1, ⟨7, true⟩, .blank, .blank, .blank, ⟨0x10000, true⟩, 1⟩

/-- The spec's vector C9; the return of R288 with the frame of depth 1 gone. -/
theorem test_exit : (
  (match exec .exit (st [(0, 42)] []) with
    | .next t => decide (t.status = .exited 42)
    | _ => false) &&
  enters { st [(0, 5), (1, 40), (6, 9), (9, 1)] [(0xfdf8, 1), (0xfff8, 2)] with frames := [rec1], pc := 3 } .exit 1 0
    [(0, 5), (6, 7), (10, 0x10000)] [1, 2, 9] &&
  (match exec .exit { st [(0, 5)] [(0xfdf8, 1), (0xfff8, 2)] with frames := [rec1] } with
    | .next t => decide (t.mem = [(0xfff8, 2)])
    | _ => false)) = true := by decide

/-- The spec's vectors W1 to W10; the map and variable addresses are `cfgW`'s. -/
theorem test_imm64_vectors : (
  gives (st [] []) (.lddw 1 0x55667788 0x11223344) [(1, 0x1122334455667788)] [] 2 &&
  gives (st [] []) (.lddw 1 0x80000000 0x11223344) [(1, 0x1122334480000000)] [] 2 &&
  gives (stc cfgW [] []) (.ldMapFd 1 7) [(1, 0x5000)] [] 2 &&
  gives (stc cfgW [] []) (.ldMapFdValue 1 7 16) [(1, 0x7010)] [] 2 &&
  gives (stc cfgW [] []) (.ldVarAddr 1 3) [(1, 0x8888)] [] 2 &&
  gives (stc cfgW [] []) (.ldMapIdx 1 0) [(1, 0x6000)] [] 2 &&
  gives (stc cfgW [] []) (.ldMapIdxValue 1 0 0xfffffff8) [(1, 0x100000008)] [] 2 &&
  stops (st [] []) (.ldMapFd 1 7) (.unsupported 0)) = true := by decide

/-- W8: the address is that of slot 5. -/
theorem test_ld_code_addr : exec (.ldCodeAddr 1 4) (st [] []) = .next ((st [] []).wrote 1 (codeAddrOf .testVectors 0 5) 2) := rfl

/-- R359: the platform's address of slot 1; a slot whose stated address is one of a slot below has another. -/
theorem test_code_addr_stated : (
  gives { stc { Config.testVectors with codeAddr := [0x100, 0x200, 0x100] } [] [] with prog := [0x118, 0, 0x95] } (.ldCodeAddr 1 0) [(1, 0x200)] [] 2 &&
  decide (codeAddrOf { Config.testVectors with codeAddr := [0x100, 0x200, 0x100] } 3 2 ∉ ([0x100, 0x200] : List Word))) = true := by decide

theorem test_legacy_refused : (
  stops (st [] []) (.ldabsw 0 0 0 14) (.legacy 0) && stops (st [] []) (.ldinddw 1 2 3 4) (.legacy 0)) = true := by decide

/-- R123 with `SHIFT_POLICY = refuse`: no successor for an amount of 64, one for 63. -/
theorem test_shift_refuse : (
  stops (stc cfgW [(1, 3), (2, 64)] []) (.lsh64Reg 1 2) (.shiftRange 0) &&
  gives (stc cfgW [(1, 3), (2, 63)] []) (.lsh64Reg 1 2) [(1, 0x8000000000000000), (2, 63)] [] 1 &&
  gives (stc cfgW [(1, 3), (2, 0x100000001)] []) (.lsh32Reg 1 2) [(1, 6), (2, 0x100000001)] [] 1) = true := by decide

/-! ## The step, fetching, load and launch -/

/-- The step from a state with one instruction placed; the status after it. -/
def statusAfter (s : State) : Option RunStatus :=
  match step s with
  | .next t => some t.status
  | _ => none

/-- S1: `07 01 00 00 44 33 22 11` in little-endian BPF, `07 10 00 00 11 22 33 44` in big-endian. -/
theorem test_step_runs_word :
    (match step ((st [(1, 0)] []).withFetchWord 64 0x1122334400000107) with
      | .next t => decide (t.reg 1 = ⟨0x11223344, true⟩) && t.pc == 1
      | _ => false) = true ∧
    (big ((st [(1, 0)] []).withFetchWord 64 0)).prog = [0, 0] ∧
    ((big (st [(1, 0)] [])).withFetchWord 64 0x1122334400000107).prog = [0x4433221100001007, 0] := by decide

/-- X22: a program that runs past its last slot; a slot that is no instruction; a run that is over. -/
theorem test_step_faults :
    statusAfter { st [] [] with prog := [0x2a000001b7], pc := 1 } = some (.faulted (.pcOutOfRange 1)) ∧
    statusAfter (State.reset.withFetchWord 64 0) = some (.faulted (.illegalInstruction 0)) ∧
    statusAfter { st [] [] with prog := [0x95], status := .exited 3 } = none := by decide

/-- What `launch` answers. -/
def refusal (cfg : Config) (prog : List Slot) : Option Refusal :=
  match launch cfg prog [] .silent with
  | .refused r => some r
  | _ => none

/-- R405, one program for each reason; X19, X20, C5, W5, L1 among them; X22 and a program with a call are launched. -/
theorem test_launch :
    refusal .testVectors [] = some .empty ∧
    refusal .testVectors [0x95, 0] = some (.notAnInstruction 1) ∧
    refusal .testVectors [0x50005, 0x95, 0x95] = some (.badTarget 0) ∧
    refusal .testVectors [0x10005, 0x118, 0, 0x95] = some (.badTarget 0) ∧
    refusal cfgW [0x95, 0x0000000300000085] = some (.unknownHelper 1) ∧
    refusal .testVectors [0x0000000700001118, 0, 0x95] = some (.unsupported 0) ∧
    refusal { cfgW with legacyPacket := true } [0x95, 0x0000000e00000020] = some (.legacy 1) ∧
    refusal cfgW [0x0000004000000167, 0x95] = some (.shiftRange 0) ∧
    refusal .testVectors [0x2a000001b7] = none ∧
    refusal .testVectors [0x00001085, 0x95] = none := by decide

/-- R441 with two entry arguments. -/
theorem test_entry :
    ((entryState { Config.testVectors with entryArgs := [11, 22] } [0x95] [] .silent).regs.toList.map fun r => if r.defd then some r.val else none) =
      [none, some 11, some 22, none, none, none, none, none, none, none, some 0x10000] := by decide

/-- Other agents write shared bytes only (R62); the batch is used up. -/
theorem test_take_env :
    ({ stc { Config.testVectors with regions := [⟨0x20000, 8, true, true, true⟩] } [] [(0xfff8, 1)] with
        env := .batch [(0x20000, 5), (0xfff8, 6)] .silent }).takeEnv.mem = [(0xfff8, 1), (0x20000, 5)] := by decide

/-- A misaligned access may meet the first write of the next batch without the second (R59, R62). -/
theorem test_midway :
    ({ stc { Config.testVectors with regions := [⟨0x20000, 8, true, true, true⟩] } [] [(0x20001, 1)] with
        env := .batch [(0x20000, 5), (0x20001, 6)] .silent }.midway 1).mem = [(0x20000, 5), (0x20001, 1)] := by decide

/-- R357: a region that holds the value area of a map is shared whatever its entry says; another is as its entry says. -/
def cfgM : Config :=
  { Config.testVectors with
    regions := [⟨0x7000, 8, true, true, false⟩, ⟨0x9000, 8, true, true, false⟩]
    mapsSupported := true, mapByFd := [(7, 0x5000)], mva := [(0x5000, 0x7004)] }

theorem test_map_value_shared :
    (stc cfgM [] []).region? .read 0x7000 8 = some ⟨⟨0x7000, 8, true, true, true⟩, 0⟩ ∧
    (stc cfgM [] []).region? .read 0x9000 8 = some ⟨⟨0x9000, 8, true, true, false⟩, 0⟩ ∧
    (stc { cfgM with mapsSupported := false } [] []).region? .read 0x7000 8 = some ⟨⟨0x7000, 8, true, true, false⟩, 0⟩ := by decide

/-! ## Witnesses: for each obligation with hypotheses, states and operands that meet them, at the ends of their ranges -/

theorem witness_Alu64ImmResult : (st [(9, 0xffffffffffffffff)] []).reg (WReg.toReg 9) = ⟨0xffffffffffffffff, true⟩ := by decide

theorem witness_Alu64RegResult : (st [(0, 7)] []).reg (WReg.toReg 0) = ⟨7, true⟩ ∧ (st [(0, 7)] []).reg 10 = ⟨0x10000, true⟩ := by decide

theorem witness_Alu32ImmResult : (st [(0, 0xaaaaaaaa00000000)] []).reg (WReg.toReg 0) = ⟨0xaaaaaaaa00000000, true⟩ := by decide

theorem witness_Alu32RegResult :
    (st [(9, 0xffffffffffffffff)] []).reg (WReg.toReg 9) = ⟨0xffffffffffffffff, true⟩ ∧
    (st [(9, 0xffffffffffffffff)] []).reg 9 = ⟨0xffffffffffffffff, true⟩ := by decide

theorem witness_MoveNegateResult :
    (st [] []).reg 10 = ⟨0x10000, true⟩ ∧
    (st [(1, 0x8000000000000000)] []).reg (WReg.toReg 1) = ⟨0x8000000000000000, true⟩ := by decide

/-- The zero divisor and the greatest one, as an immediate and as a register whose low half is zero. -/
theorem witness_DivModUnsigned :
    (st [(1, 77), (2, 0)] []).reg (WReg.toReg 1) = ⟨77, true⟩ ∧ (st [(1, 77), (2, 0)] []).reg 2 = ⟨0, true⟩ ∧
    (st [(1, 77), (2, 0x700000000)] []).reg 2 = ⟨0x700000000, true⟩ ∧ (0x700000000 : Word).setWidth 32 = 0 ∧
    (0 : Imm).signExtend 64 = 0 ∧ (0xffffffff : Imm).signExtend 64 ≠ 0 ∧ (0xffffffff : Imm) ≠ 0 := by decide

/-- Amounts 63 and 64, as an immediate and as a register, under both policies. -/
theorem witness_Shift64Amounts :
    (stc cfgW [(1, 3), (2, 64), (3, 63)] []).reg (WReg.toReg 1) = ⟨3, true⟩ ∧
    (stc cfgW [(1, 3), (2, 64), (3, 63)] []).reg 2 = ⟨64, true⟩ ∧ (stc cfgW [(1, 3), (2, 64), (3, 63)] []).reg 3 = ⟨63, true⟩ ∧
    (stc cfgW [(1, 3), (2, 64), (3, 63)] []).cfg.shiftPolicy = .refuse ∧ (st [(1, 3)] []).cfg.shiftPolicy = .mask ∧
    ((63 : Imm).signExtend 64).toNat < 64 ∧ 64 ≤ ((64 : Imm).signExtend 64).toNat ∧
    64 ≤ ((0xffffffff : Imm).signExtend 64).toNat ∧ (63 : Word).toNat < 64 ∧ 64 ≤ (64 : Word).toNat := by decide

/-- Amounts 31 and 32; a register whose low half is 31 below a set upper half. -/
theorem witness_Shift32Amounts :
    (stc cfgW [(1, 3), (2, 32), (3, 0x10000001f)] []).reg (WReg.toReg 1) = ⟨3, true⟩ ∧
    (stc cfgW [(1, 3), (2, 32), (3, 0x10000001f)] []).reg 2 = ⟨32, true⟩ ∧
    (stc cfgW [(1, 3), (2, 32), (3, 0x10000001f)] []).reg 3 = ⟨0x10000001f, true⟩ ∧
    cfgW.shiftPolicy = .refuse ∧ (st [(1, 3)] []).cfg.shiftPolicy = .mask ∧ (31 : Imm).toNat < 32 ∧ 32 ≤ (32 : Imm).toNat ∧
    ((0x10000001f : Word).setWidth 32).toNat < 32 ∧ 32 ≤ ((32 : Word).setWidth 32).toNat := by decide

theorem witness_ByteSwapBytes :
    (st [(1, 0x1122334455667788)] []).reg (WReg.toReg 1) = ⟨0x1122334455667788, true⟩ ∧
    (big (st [(1, 0x1122334455667788)] [])).reg (WReg.toReg 1) = ⟨0x1122334455667788, true⟩ := by decide

/-- A jump to slot 0 by the least offset, and one by the greatest. -/
theorem witness_Jump64Result :
    ((0 : Nat) : Int) = ({ st [(1, 5), (2, 5)] [] with pc := 0x7fff }.pc : Int) + 1 + (0x8000 : Off).toInt ∧
    ((0x8000 : Nat) : Int) = ((st [(1, 5), (2, 5)] []).pc : Int) + 1 + (0x7fff : Off).toInt ∧
    (st [(1, 5), (2, 5)] []).reg 1 = ⟨5, true⟩ ∧ (st [(1, 5), (2, 5)] []).reg 2 = ⟨5, true⟩ := by decide

theorem witness_Jump32Result :
    ((0 : Nat) : Int) = ((st [(1, 5)] []).pc : Int) + 1 + (0xffff : Off).toInt ∧
    (st [(1, 5)] []).reg 1 = ⟨5, true⟩ ∧ (st [(1, 5)] []).reg 10 = ⟨0x10000, true⟩ := by decide

/-- One slot before slot 0, by an offset and by a 32-bit displacement. -/
theorem witness_JumpBeforeSlotZero :
    ({ st [(1, 5), (2, 5)] [] with pc := 0x7ffe }.pc : Int) + 1 + (0x8000 : Off).toInt < 0 ∧
    ((st [(1, 5), (2, 5)] []).pc : Int) + 1 + (0xfffe : Off).toInt < 0 ∧
    ((st [(1, 5), (2, 5)] []).pc : Int) + 1 + (0xfffffffe : Imm).toInt < 0 ∧
    ({ st [(1, 5), (2, 5)] [] with pc := 0x7ffffffe }.pc : Int) + 1 + (0x80000000 : Imm).toInt < 0 ∧
    (st [(1, 5), (2, 5)] []).reg 1 = ⟨5, true⟩ ∧ (st [(1, 5), (2, 5)] []).reg 2 = ⟨5, true⟩ ∧
    (st [] []).frames.length ≠ Config.maxCallDepth (st [] []).cfg ∧ (st [] []).cfg.localCallField = .offset ∧
    (stc { Config.testVectors with localCallField := .imm } [] []).frames.length ≠ Config.maxCallDepth { Config.testVectors with localCallField := .imm } := by
  decide

/-- One shared region, one that is only readable, and a reading of shared memory. -/
def cfgS (m : SharedModel) : Config :=
  { Config.testVectors with regions := [⟨0x20000, 8, true, true, true⟩, ⟨0x30000, 16, true, false, false⟩], sharedModel := m }

/-- A state whose R1 points at the shared region, R3 at the read-only one; R0, R2 hold values. -/
def stS (m : SharedModel) : State := stc (cfgS m) [(0, 7), (1, 0x20000), (2, 5), (3, 0x30008)] [(0x20000, 9)]

/-- The shared region, as a live region. -/
def lrS : LiveRegion := ⟨⟨0x20000, 8, true, true, true⟩, 0⟩

/-- The frame of call depth 0, as a live region. -/
def lrF : LiveRegion := ⟨⟨0xfe00, 512, true, true, false⟩, 0⟩

/-- The lowest and the highest 8 bytes of the frame; the shared region under both readings. -/
theorem witness_LoadResult :
    (st [] []).reg 10 = ⟨0x10000, true⟩ ∧ ((0x10000 : Word) + (0xfe00 : Off).signExtend 64).toNat % 8 = 0 ∧
    (st [] []).region? .read ((0x10000 : Word) + (0xfe00 : Off).signExtend 64) 8 = some lrF ∧
    (st [] []).region? .read ((0x10000 : Word) + (0xfff8 : Off).signExtend 64) 8 = some lrF ∧ lrF.region.shared = false ∧
    (stS .havoc).reg 1 = ⟨0x20000, true⟩ ∧ ((0x20000 : Word) + (0 : Off).signExtend 64).toNat % 8 = 0 ∧
    (stS .havoc).region? .read ((0x20000 : Word) + (0 : Off).signExtend 64) 8 = some lrS ∧ lrS.region.shared = true ∧
    (stS .havoc).cfg.sharedModel = .havoc ∧ (stS .sc).cfg.sharedModel = .sc ∧ (stS .sc).reg 1 = ⟨0x20000, true⟩ ∧
    (stS .sc).region? .read ((0x20000 : Word) + (0 : Off).signExtend 64) 8 = some lrS := by decide

/-- A misaligned load of the last 4 bytes but one of the shared region, with `sc`, writes pending and none. -/
theorem witness_LoadResult_misaligned :
    ({ cfgS .sc with alignPolicy := .allow }).alignPolicy ≠ .fault ∧
    (stc { cfgS .sc with alignPolicy := .allow } [(1, 0x20000)] []).reg 1 = ⟨0x20000, true⟩ ∧
    ((0x20000 : Word) + (3 : Off).signExtend 64).toNat % 4 ≠ 0 ∧
    (stc { cfgS .sc with alignPolicy := .allow } [(1, 0x20000)] []).region? .read ((0x20000 : Word) + (3 : Off).signExtend 64) 4 = some lrS ∧
    lrS.region.shared = true ∧ (stc { cfgS .sc with alignPolicy := .allow } [(1, 0x20000)] []).cfg.sharedModel = .sc ∧
    (stc { cfgS .sc with alignPolicy := .allow } [(1, 0x20000)] []).env = .silent := by decide

/-- The same load with writes to the shared region pending. -/
theorem witness_LoadResult_pending :
    ({ stc { cfgS .sc with alignPolicy := .allow } [(1, 0x20000)] [] with env := .batch [(0x20003, 7)] (.free 0) }).region? .read
      ((0x20000 : Word) + (3 : Off).signExtend 64) 4 = some lrS ∧
    ({ stc { cfgS .sc with alignPolicy := .allow } [(1, 0x20000)] [] with env := .batch [(0x20003, 7)] (.free 0) }).reg 1 = ⟨0x20000, true⟩ ∧
    ((0x20000 : Word) + (3 : Off).signExtend 64).toNat % 4 ≠ 0 ∧
    ({ stc { cfgS .sc with alignPolicy := .allow } [(1, 0x20000)] [] with env := .batch [(0x20003, 7)] (.free 0) }).cfg.sharedModel = .sc := by decide

theorem witness_StoreResult :
    (st [(1, 5)] []).reg 10 = ⟨0x10000, true⟩ ∧ (st [(1, 5)] []).reg 1 = ⟨5, true⟩ ∧
    ((0x10000 : Word) + (0xfe00 : Off).signExtend 64).toNat % 8 = 0 ∧
    (st [(1, 5)] []).region? .write ((0x10000 : Word) + (0xfe00 : Off).signExtend 64) 8 = some lrF ∧
    (st [(1, 5)] []).region? .write ((0x10000 : Word) + (0xffff : Off).signExtend 64) 1 = some lrF := by decide

/-- A misaligned load; an aligned load one past the frame; a store to a region that is only readable. -/
theorem witness_RegularAccessTraps :
    Instr.regularAccess (.ldxw 1 10 0xfffd) = some (10, 0xfffd, 4, .read) ∧
    (st [] []).firstUndefined (Instr.reads (st [] []) (.ldxw 1 10 0xfffd)) = none ∧ (st [] []).reg 10 = ⟨0x10000, true⟩ ∧
    (st [] []).cfg.alignPolicy = .fault ∧ ((0x10000 : Word) + (0xfffd : Off).signExtend 64).toNat % 4 ≠ 0 ∧
    ((0x10000 : Word) + (0 : Off).signExtend 64).toNat % 4 = 0 ∧
    (st [] []).region? .read ((0x10000 : Word) + (0 : Off).signExtend 64) 4 = none ∧
    Instr.regularAccess (.stxdw 3 0 2) = some (3, 0, 8, .write) ∧
    (stS .sc).firstUndefined (Instr.reads (stS .sc) (.stxdw 3 0 2)) = none ∧ (stS .sc).reg 3 = ⟨0x30008, true⟩ ∧
    ((0x30008 : Word) + (0 : Off).signExtend 64).toNat % 8 = 0 ∧
    (stS .sc).region? .write ((0x30008 : Word) + (0 : Off).signExtend 64) 8 = none := by decide

theorem witness_RegionFound :
    (stS .sc).region? .read 0x30008 8 = some ⟨⟨0x30000, 16, true, false, false⟩, 0⟩ ∧ (stS .sc).region? .read 0x30009 8 = none ∧
    (1 : Nat) ≤ ({ st [] [] with frames := [rec1] }).frames.length := by decide

theorem witness_StoreThenReadBytes : (8 : Nat) ∈ [1, 2, 4, 8] ∧ (0xfffffffffffffff8 : Word).toNat + 8 ≤ 2 ^ 64 := by decide

theorem witness_MixedWidthBytes :
    (0xfffffffffffffffc : Word).toNat + 4 ≤ 2 ^ 64 ∧ (3 : Nat) + 1 ≤ 4 ∧ (st [] []).cfg.endian = .little ∧
    (big (st [] [])).cfg.endian = .big := by decide

/-- The byte below a store of 8 bytes, its first, its last, and the one above. -/
theorem witness_UnwrittenByteDrawn :
    (st [] []).mem.get? 0xffef = none ∧ (0xffef : Nat) < (0xfff0 : Word).toNat ∧
    (st [] []).mem.get? 0xfff0 = none ∧ (0xfff0 : Word).toNat ≤ 0xfff0 ∧ (0xfff0 : Nat) < (0xfff0 : Word).toNat + 8 ∧
    (st [] []).mem.get? 0xfff7 = none ∧ (0xfff7 : Nat) < (0xfff0 : Word).toNat + 8 ∧
    (st [] []).mem.get? 0xfff8 = none ∧ (0xfff0 : Word).toNat + 8 ≤ 0xfff8 := by decide

/-- A private and a shared location, the latter under both readings of shared memory. -/
theorem witness_Atomic32Result :
    (st [(0, 7), (2, 5)] []).reg 10 = ⟨0x10000, true⟩ ∧ ((0x10000 : Word) + (0xfffc : Off).signExtend 64).toNat % 4 = 0 ∧
    (st [(0, 7), (2, 5)] []).region? .rmw ((0x10000 : Word) + (0xfffc : Off).signExtend 64) 4 = some lrF ∧
    (∃ old, (st [(0, 7), (2, 5)] []).load lrF ((0x10000 : Word) + (0xfffc : Off).signExtend 64) 4 = (old, st [(0, 7), (2, 5)] [])) ∧
    (st [(0, 7), (2, 5)] []).reg 2 = ⟨5, true⟩ ∧ (st [(0, 7), (2, 5)] []).reg (WReg.toReg 2) = ⟨5, true⟩ ∧
    (st [(0, 7), (2, 5)] []).reg 0 = ⟨7, true⟩ ∧
    (stS .havoc).region? .rmw ((0x20000 : Word) + (4 : Off).signExtend 64) 4 = some lrS ∧
    ((0x20000 : Word) + (4 : Off).signExtend 64).toNat % 4 = 0 ∧
    (stS .havoc).load lrS ((0x20000 : Word) + (4 : Off).signExtend 64) 4 =
      (truncBytes 4 (Config.havocValue 1), { stS .havoc with draws := 2 }) ∧
    (∃ old, (stS .sc).load lrS ((0x20000 : Word) + (4 : Off).signExtend 64) 4 = (old, stS .sc)) :=
  ⟨by decide, by decide, by decide, ⟨_, rfl⟩, by decide, by decide, by decide, by decide, by decide, rfl, ⟨_, rfl⟩⟩

theorem witness_Atomic64Result :
    (st [(0, 7), (2, 5)] []).reg 10 = ⟨0x10000, true⟩ ∧ ((0x10000 : Word) + (0xfe00 : Off).signExtend 64).toNat % 8 = 0 ∧
    (st [(0, 7), (2, 5)] []).region? .rmw ((0x10000 : Word) + (0xfe00 : Off).signExtend 64) 8 = some lrF ∧
    (∃ old, (st [(0, 7), (2, 5)] []).load lrF ((0x10000 : Word) + (0xfe00 : Off).signExtend 64) 8 = (old, st [(0, 7), (2, 5)] [])) ∧
    (st [(0, 7), (2, 5)] []).reg 2 = ⟨5, true⟩ ∧ (st [(0, 7), (2, 5)] []).reg (WReg.toReg 2) = ⟨5, true⟩ ∧
    (st [(0, 7), (2, 5)] []).reg 0 = ⟨7, true⟩ ∧
    (stS .havoc).region? .rmw ((0x20000 : Word) + (0 : Off).signExtend 64) 8 = some lrS ∧
    ((0x20000 : Word) + (0 : Off).signExtend 64).toNat % 8 = 0 ∧
    (stS .havoc).load lrS ((0x20000 : Word) + (0 : Off).signExtend 64) 8 =
      (truncBytes 8 (Config.havocValue 1), { stS .havoc with draws := 2 }) ∧
    (∃ old, (stS .sc).load lrS ((0x20000 : Word) + (0 : Off).signExtend 64) 8 = (old, stS .sc)) :=
  ⟨by decide, by decide, by decide, ⟨_, rfl⟩, by decide, by decide, by decide, by decide, by decide, rfl, ⟨_, rfl⟩⟩

/-- R0 undefined for a compare and exchange; an address 4 above a multiple of 8; a region that is only readable. -/
theorem witness_AtomicTraps :
    Instr.isAtomic (.atomicCmpxchg64 10 0xfff8 1) = true ∧ Instr.storesTo (.atomicCmpxchg64 10 0xfff8 1) = some (10, 0xfff8, 8) ∧
    (st [(1, 5)] []).firstUndefined (Instr.reads (st [(1, 5)] []) (.atomicCmpxchg64 10 0xfff8 1)) = some 0 ∧
    Instr.isAtomic (.atomicAdd64 10 0xfffc 1) = true ∧ Instr.storesTo (.atomicAdd64 10 0xfffc 1) = some (10, 0xfffc, 8) ∧
    (st [(1, 5)] []).firstUndefined (Instr.reads (st [(1, 5)] []) (.atomicAdd64 10 0xfffc 1)) = none ∧
    (st [(1, 5)] []).reg 10 = ⟨0x10000, true⟩ ∧ ((0x10000 : Word) + (0xfffc : Off).signExtend 64).toNat % 8 ≠ 0 ∧
    Instr.isAtomic (.atomicAdd64 3 0 2) = true ∧ Instr.storesTo (.atomicAdd64 3 0 2) = some (3, 0, 8) ∧
    (stS .sc).firstUndefined (Instr.reads (stS .sc) (.atomicAdd64 3 0 2)) = none ∧ (stS .sc).reg 3 = ⟨0x30008, true⟩ ∧
    ((0x30008 : Word) + (0 : Off).signExtend 64).toNat % 8 = 0 ∧
    (stS .sc).region? .rmw ((0x30008 : Word) + (0 : Off).signExtend 64) 8 = none := by decide

theorem witness_PlatformAddressLoads :
    cfgW.mapsSupported = true ∧ cfgW.mapByFd.lookup 7 = some 0x5000 ∧ cfgW.mva.lookup 0x5000 = some 0x7000 ∧
    cfgW.mapByIdx.lookup 0 = some 0x6000 ∧ cfgW.mva.lookup 0x6000 = some 0x10 ∧ cfgW.varsSupported = true ∧
    cfgW.variableAddr.lookup 3 = some 0x8888 ∧
    ((0 : Nat) : Int) = ((stc cfgW [] []).pc : Int) + 1 + (0xffffffff : Imm).toInt := by decide

theorem witness_UnsupportedOperandsRefused :
    Instr.operandSupported .testVectors (.ldVarAddr 1 3) = false ∧ Instr.operandSupported cfgW (.ldMapFd 1 8) = false ∧
    Instr.helperKnown cfgW (.callHelper 3) = false ∧ Instr.helperKnown cfgW (.callPlatform 1) = false := by decide

/-- One call below the limit of 8; a callee at slot 0. -/
theorem witness_LocalCallEnters :
    ({ st [] [] with frames := List.replicate 7 rec1 }).frames.length ≠ Config.maxCallDepth .testVectors ∧
    ((0 : Nat) : Int) = ((st [] []).pc : Int) + 1 + (if (st [] []).cfg.localCallField = .offset then (0xffff : Off).toInt else (0 : Imm).toInt) := by
  decide

theorem witness_CallDepthLimit :
    ({ st [] [] with frames := List.replicate 8 rec1 }).frames.length = Config.maxCallDepth .testVectors ∧
    ({ st [] [] with frames := List.replicate 7 rec1 }).frames.length < Config.maxCallDepth .testVectors ∧
    0 ≤ ((st [] []).pc : Int) + 1 + (if (st [] []).cfg.localCallField = .offset then (0xffff : Off).toInt else (0 : Imm).toInt) := by
  decide

theorem witness_ExitTwoMeanings :
    (st [(0, 42)] []).frames = [] ∧ (st [(0, 42)] []).reg 0 = ⟨42, true⟩ ∧ (st [] []).frames = [] ∧ ((st [] []).reg 0).defd = false ∧
    ({ st [] [] with frames := [rec1] }).frames = rec1 :: [] := by decide

/-- A helper with a value, one without, one that faults, and an argument that is undefined. -/
theorem witness_HelperCallEffects :
    cfgW.helpersAgnostic.lookup 1 = some helper1 ∧
    (stc cfgW [(1, 40)] []).firstUndefined (argRegs helper1.arity) = some 2 ∧
    (stc cfgW [(1, 40), (2, 2)] []).firstUndefined (argRegs helper1.arity) = none ∧
    (stc cfgW [(1, 40), (2, 2)] []).outcome .agnostic 1 helper1 [40, 2] = .ret (some 42) [] ∧
    cfgW.helpersAgnostic.lookup 2 = some helper2 ∧ (stc cfgW [] []).firstUndefined (argRegs helper2.arity) = none ∧
    (stc cfgW [] []).outcome .agnostic 2 helper2 [] = .ret none [] ∧
    cfgW.helpersPlatform.lookup 9 = some helper9 ∧ (stc cfgW [(1, 0)] []).firstUndefined (argRegs helper9.arity) = none ∧
    (stc cfgW [(1, 0)] []).outcome .platform 9 helper9 [0] = .fault 3 :=
  ⟨by decide, by decide, by decide, rfl, by decide, by decide, rfl, by decide, by decide, rfl⟩

/-- A value, no value, and a value with bytes written. -/
theorem witness_HelperCallCompletes :
    (stc cfgW [(1, 40), (2, 2)] []).firstUndefined (argRegs helper1.arity) = none ∧
    (stc cfgW [(1, 40), (2, 2)] []).helperCase? helper1 ((argRegs helper1.arity).map fun r => ((stc cfgW [(1, 40), (2, 2)] []).reg r).val) =
      some ⟨[40, 2], [], .ret (some 42) [], []⟩ ∧ cfgW.helpersAgnostic.lookup 1 = some helper1 ∧
    (stc cfgW [] []).firstUndefined (argRegs helper2.arity) = none ∧
    (stc cfgW [] []).helperCase? helper2 ((argRegs helper2.arity).map fun r => ((stc cfgW [] []).reg r).val) =
      some ⟨[], [], .ret none [], []⟩ ∧ cfgW.helpersAgnostic.lookup 2 = some helper2 ∧
    (stc cfgW [(1, 0xfff8)] []).firstUndefined (argRegs helper9.arity) = none ∧
    (stc cfgW [(1, 0xfff8)] []).helperCase? helper9 ((argRegs helper9.arity).map fun r => ((stc cfgW [(1, 0xfff8)] []).reg r).val) =
      some ⟨[0xfff8], [], .ret (some 1) [(0xfff8, 0x77), (0x20000, 0x55)], []⟩ ∧
    cfgW.helpersPlatform.lookup 9 = some helper9 := by decide

theorem witness_LegacyPacketRefused : Instr.ldindb 15 15 0xffff 0xffffffff ∈
    [Instr.ldabsw 15 15 0xffff 0xffffffff, .ldindb 15 15 0xffff 0xffffffff] := by decide

theorem witness_UninitRegisterFault :
    (st [(1, 5)] []).firstUndefined (Instr.reads (st [(1, 5)] []) (.add64Reg 1 2)) = some 2 ∧
    (st [] []).firstUndefined (Instr.reads (st [] []) .exit) = some 0 := by decide

/-- A fault by exec and one by step. -/
theorem witness_FaultsArePrecise :
    (st [] []).status = .running ∧
    exec (.add64Imm 1 1) (st [] []) = .next ((st [] []).faultedWith (.uninitRegister 1)) ∧
    ((st [] []).faultedWith (.uninitRegister 1)).status = .faulted (.uninitRegister 1) ∧
    step (st [] []) = .next ((st [] []).faultedWith (.pcOutOfRange 0)) := ⟨rfl, rfl, rfl, rfl⟩

theorem witness_OnlyRunningSteps :
    ({ st [] [] with status := .faulted (.callDepth 3) }).status = .faulted (.callDepth 3) ∧
    ({ st [] [] with status := .exited 3 }).status = .exited 3 := by decide

/-- A one-slot program, and a batch of other agents' writes pending. -/
theorem witness_StepRunsDecoded :
    ({ st [] [] with prog := [0x95], env := .batch [(0, 0)] .silent }).status = .running ∧
    ({ st [] [] with prog := [0x95], env := .batch [(0, 0)] .silent }).pc < ({ st [] [] with prog := [0x95], env := .batch [(0, 0)] .silent }).prog.length ∧
    decode .little .offset (([0x95] : List Slot).drop 0) = .ok .exit ∧ ({ st [] [] with prog := [0x95] }).env = .silent :=
  ⟨by decide, by decide, rfl, rfl⟩

theorem witness_FetchFaults :
    (st [] []).status = .running ∧ (st [] []).prog.length ≤ (st [] []).pc ∧
    ({ st [] [] with prog := [0] }).pc < ({ st [] [] with prog := [0] }).prog.length ∧
    decode .little .offset (([0] : List Slot).drop 0) = .error .reservedOpcode := ⟨rfl, by decide, by decide, rfl⟩

theorem witness_RegisterFrame :
    exec (.callLocal 0 0) (st [] []) = .next ((st [] []).enter 1) ∧ exec (.mov64Imm 1 5) (st [] []) = .next ((st [] []).wrote 1 5 1) ∧
    (2 : Reg) ∉ Instr.writes (.mov64Imm 1 5) := ⟨rfl, rfl, by decide⟩

/-- A store, an atomic fetch, a form that stores nothing, and the end of the program. -/
theorem witness_MemoryFrame :
    (∃ t, exec (.stb 10 0xffff 7) (st [(0, 5)] []) = .next t) ∧ Instr.storesTo (.stb 10 0xffff 7) = some (10, 0xffff, 1) ∧
    (st [(0, 5)] []).reg 10 = ⟨0x10000, true⟩ ∧ (∃ t, exec (.mov64Imm 1 5) (st [(0, 5)] []) = .next t) ∧
    Instr.storesTo (.mov64Imm 1 5) = none ∧ Instr.isCallOrExit (.mov64Imm 1 5) = false ∧
    (∃ t, exec .exit (st [(0, 5)] []) = .next t) ∧ (st [(0, 5)] []).frames = [] ∧
    (∃ t, exec (.atomicFetchAdd32 1 4 2) (stS .havoc) = .next t) ∧ Instr.storesTo (.atomicFetchAdd32 1 4 2) = some (1, 4, 4) :=
  ⟨⟨_, rfl⟩, by decide, by decide, ⟨_, rfl⟩, by decide, by decide, ⟨_, rfl⟩, rfl, ⟨_, rfl⟩, by decide⟩

/-- A checked program: `mov64_imm r0, 5`, `exit`. -/
def prog2 : List Slot := [0x5000000b7, 0x95]

/-- Its entry state. -/
def st2 : State := entryState .testVectors prog2 [] .silent

theorem witness_TextNeverChanges : Reaches st2 (st2.wrote 0 5 1) := .next (.here _) rfl

theorem witness_MemoryFormKept : st2.mem.wf ∧ step st2 = .next (st2.wrote 0 5 1) := ⟨by decide, rfl⟩

theorem witness_FramePointerKept : st2.framePointerOk ∧ step st2 = .next (st2.wrote 0 5 1) :=
  ⟨⟨by decide, trivial, by decide⟩, rfl⟩

theorem witness_CheckedProgramPc : st2.textOk ∧ step st2 = .next (st2.wrote 0 5 1) ∧ st2.status = .running :=
  ⟨⟨by decide, ⟨_, rfl, .inr ⟨_, .head _⟩⟩, nofun⟩, rfl, rfl⟩

/-- The program under both shift policies; under `refuse`, one whose register shift is out of range. -/
theorem witness_CheckedProgramNeverStuck :
    st2.textOk ∧ st2.status = .running ∧ st2.cfg.shiftPolicy = .mask ∧
    (∃ s : State, s.textOk ∧ s.status = .running ∧ step s = .refused (.shiftRange 0)) := by
  refine ⟨⟨by decide, ⟨_, rfl, .inr ⟨_, .head _⟩⟩, nofun⟩, rfl, rfl,
    { stc cfgW [(1, 3), (2, 64)] [] with prog := [0x216f, 0x95] }, ⟨by decide, ⟨_, rfl, .inr ⟨_, .head _⟩⟩, nofun⟩, rfl, rfl⟩

theorem witness_EntryState :
    ({ Config.testVectors with entryArgs := [11, 22, 33, 44, 55] }).entryArgs[(5 : Reg).val - 1]? = some 55 ∧
    (Config.testVectors).entryArgs[(1 : Reg).val - 1]? = none := by decide

theorem witness_LaunchMeetsInvariants :
    programProblem .testVectors prog2 = none ∧ programProblem .testVectors [] = some .empty ∧ Memory.wf [(0x20000, 5)] := by decide

theorem witness_DecodeEncode :
    Instr.unusedFieldsZero .imm (.callLocal 0 0xffffffff) = true ∧ Instr.unusedFieldsZero .offset (.add64Reg 9 10) = true := by decide

theorem witness_EncodeDecode : decode .little .offset [0x4433221100000218, 0x8877665500000000, 0x95] = .ok (.lddw 2 0x44332211 0x88776655) := rfl

/-- The opcode of the all-zero slot and the last one; a program that holds the former behind `exit`. -/
theorem witness_ReservedOpcodes :
    (0 : Nat) ∈ [0, 0x08, 0xff] ∧ instrStarts .little .offset [0x95] = .ok [(0, .exit)] ∧
    ({ st [] [] with prog := [0x95, 0], pc := 1 }).status = .running ∧
    ({ st [] [] with prog := [0x95, 0], pc := 1 }).prog.drop 1 = join .little ⟨BitVec.ofNat 8 0, 0, 0, 0, 0⟩ :: [] :=
  ⟨by decide, rfl, rfl, rfl⟩

/-- The first and the last byte of the region, in a configuration that meets the environment's duties. -/
theorem witness_MapValueAreasShared :
    Config.sound cfgM ∧ (stc cfgM [] []).frames.length ≤ Config.maxCallDepth (stc cfgM [] []).cfg ∧
    (stc cfgM [] []).cfg.mapsSupported = true ∧ (stc cfgM [] []).cfg.mva.lookup 0x5000 = some 0x7004 ∧
    (⟨⟨0x7000, 8, true, true, true⟩, 0⟩ : LiveRegion) ∈ (stc cfgM [] []).live ∧ 0x7000 ≤ (0x7004 : Word).toNat ∧
    (0x7004 : Word).toNat < 0x7000 + 8 ∧ (stc cfgM [] []).cfg.sharedModel = .havoc := by decide

/-- A program of three slots whose addresses the platform states, all different. -/
theorem witness_CodeAddrInjective :
    3 ≤ 2 ^ 64 ∧ 0 < 3 ∧ 2 < 3 ∧
    codeAddrOf { Config.testVectors with codeAddr := [0x100, 0x200, 0x300] } 3 2 =
      codeAddrOf { Config.testVectors with codeAddr := [0x100, 0x200, 0x300] } 3 2 ∧
    ({ Config.testVectors with codeAddr := [0x100, 0x200, 0x300] }).codeAddr.Nodup ∧
    ({ Config.testVectors with codeAddr := [0x100, 0x200, 0x300] }).codeAddr[2]? = some 0x300 := by decide

/-- A case that applies, and none; a relation the helper keeps to. -/
theorem witness_HelperOutcomeAllowed :
    (stc cfgW [] [(0xfff8, 5)]).helperCase? helper1 [41, 2] = some ⟨[41, 2], [(0xfff8, 5)], .ret (some 1) [], [.fault 4]⟩ ∧
    (stc cfgW [] []).helperCase? helper1 [0, 0] = none ∧ HelperObeys cfgW .agnostic 1 fun _ _ _ => True :=
  ⟨by decide, by decide, fun _ _ _ => trivial⟩

/-- Silent agents, a batch that writes a shared byte twice and a private one, and free agents. -/
theorem witness_OtherAgentsWriteShared :
    ({ stS .sc with env := .batch [(0x20000, 1), (0xfff8, 2), (0x20000, 3)] (.free 0) }).env = .batch [(0x20000, 1), (0xfff8, 2), (0x20000, 3)] (.free 0) ∧
    ({ stS .sc with env := .batch [(0x20000, 1), (0xfff8, 2), (0x20000, 3)] (.free 0) }).sharedByte 0x20000 = true ∧
    ({ stS .sc with env := .free 4 }).sharedByte 0xfff8 = false ∧ ({ stS .sc with env := .free 4 }).env = .free 4 ∧
    (stS .sc).env = .silent := by decide

/-- A step and a run with free agents: `mov64_imm r0, 5`. -/
theorem witness_OtherAgentsNeverEnd :
    ({ st2 with env := .free 3 }).env = .free 3 ∧ step { st2 with env := .free 3 } = .next (({ st2 with env := .free 3 }).takeEnv.wrote 0 5 1) ∧
    Reaches { st2 with env := .free 3 } (({ st2 with env := .free 3 }).takeEnv.wrote 0 5 1) :=
  ⟨rfl, rfl, .next (.here _) rfl⟩

end Sys2Proof.Tests
end

/-! PROOFS of the family 20_memory: the bytes a read inside a store sees (spec/20_memory.md R52, R57, R58). -/

namespace Sys2Proof.Machine

/-! ## Bytes of a value -/

theorem lowBytes_eq_map (v : Word) (n : Nat) : lowBytes v n = (List.range n).map (byteOf v) := by
  induction n with
  | zero => rfl
  | succ n ih => rw [lowBytes, ih, List.range_succ, List.map_append, List.map_singleton]

theorem lowBytes_window (v : Word) {n m j : Nat} (h : j + m ≤ n) :
    ((lowBytes v n).drop j).take m = (List.range m).map fun i => byteOf v (j + i) := by
  refine List.ext_getElem (by simp; omega) fun i h₁ h₂ => ?_
  simp [lowBytes_eq_map]

/-- The `m` bytes of a value from byte `j` on make up its bits from `8j` on (R57 step (4)). -/
theorem valueOf_bytes_from (v : Word) (m j : Nat) :
    valueOf ((List.range m).map fun i => byteOf v (j + i)) = (v.extractLsb' (8 * j) (8 * m)).setWidth 64 := by
  induction m generalizing j with
  | zero => ext i; simp [valueOf]
  | succ m ih =>
    have rest : (List.range m).map ((fun i => byteOf v (j + i)) ∘ Nat.succ) =
        (List.range m).map fun i => byteOf v (j + 1 + i) :=
      List.map_congr_left fun i _ => by simp [Nat.add_assoc, Nat.add_comm 1 i]
    rw [List.range_succ_eq_map, List.map_cons, List.map_map, rest, valueOf, ih]
    ext i
    by_cases low : i < 8
    · have : i < 8 * (m + 1) := by omega
      simp [byteOf, low, this]
    · have top : i - 8 < 8 * m ↔ i < 8 * (m + 1) := by omega
      have pos : 8 * (j + 1) + (i - 8) = 8 * j + i := by omega
      simp [byteOf, low, top, pos]

theorem ofBytes_window_little (v : Word) {n m j : Nat} (h : j + m ≤ n) :
    ofBytes .little (((toBytes .little n v).drop j).take m) = (v.extractLsb' (8 * j) (8 * m)).setWidth 64 := by
  rw [toBytes, ofBytes, lowBytes_window v h, valueOf_bytes_from]

/-- In big-endian order the `m` bytes from byte `j` on are those that `n - j - m` less significant ones follow. -/
theorem ofBytes_window_big (v : Word) {n m j : Nat} (h : j + m ≤ n) :
    ofBytes .big (((toBytes .big n v).drop j).take m) = (v.extractLsb' (8 * (n - j - m)) (8 * m)).setWidth 64 := by
  have mirrored : (((lowBytes v n).reverse.drop j).take m).reverse = ((lowBytes v n).drop (n - j - m)).take m := by
    have width : n - j - (n - j - m) = m := by omega
    simp [List.drop_reverse, List.take_reverse, List.drop_take, width]
  have inside : n - j - m + m ≤ n := by omega
  rw [toBytes, ofBytes, mirrored, lowBytes_window v inside, valueOf_bytes_from]

/-! ## Reads inside a store -/

theorem State.byteIn_store (s : State) (lr : LiveRegion) (a v : Word) {n i : Nat} (h : i < n) :
    (s.store a n v).byteIn lr (a.toNat + i) = (toBytes s.cfg.endian n v)[i]'(by simpa using h) := by
  simp [State.byteIn, Memory.get?_putBytes, h]

/-- The bytes read inside a store are the corresponding stored bytes (R52). -/
theorem State.bytesIn_store (s : State) (lr : LiveRegion) (a v : Word) {n m j : Nat} (h : j + m ≤ n) :
    (s.store a n v).bytesIn lr (a.toNat + j) m = ((toBytes s.cfg.endian n v).drop j).take m := by
  refine List.ext_getElem (by simp; omega) fun i h₁ h₂ => ?_
  have hi : j + i < n := by simp at h₁; omega
  simp [State.bytesIn_range, Nat.add_assoc, State.byteIn_store s lr a v hi]

theorem State.valueAt_store (s : State) (lr : LiveRegion) (a v : Word) {b : Word} {n m j : Nat}
    (hb : b.toNat = a.toNat + j) (h : j + m ≤ n) :
    (s.store a n v).valueAt lr b m = ofBytes s.cfg.endian (((toBytes s.cfg.endian n v).drop j).take m) := by
  rw [State.valueAt, hb, State.bytesIn_store s lr a v h, State.store_cfg]

theorem State.valueAt_store_little (s : State) (lr : LiveRegion) (a v : Word) {b : Word} {n m j : Nat}
    (he : s.cfg.endian = .little) (hb : b.toNat = a.toNat + j) (h : j + m ≤ n) :
    (s.store a n v).valueAt lr b m = (v.extractLsb' (8 * j) (8 * m)).setWidth 64 := by
  rw [State.valueAt_store s lr a v hb h, he, ofBytes_window_little v h]

theorem State.valueAt_store_big (s : State) (lr : LiveRegion) (a v : Word) {b : Word} {n m j : Nat}
    (he : s.cfg.endian = .big) (hb : b.toNat = a.toNat + j) (h : j + m ≤ n) :
    (s.store a n v).valueAt lr b m = (v.extractLsb' (8 * (n - j - m)) (8 * m)).setWidth 64 := by
  rw [State.valueAt_store s lr a v hb h, he, ofBytes_window_big v h]

/-- Settles O18: the bytes inside a store are `State.bytesIn_store`; the rule's positions are the windows of one and two
bytes of a store of four, read in each byte order. -/
theorem mixedWidthBytes : Obligations.MixedWidthBytes := by
  intro s lr a v ha
  have at0 : a.toNat = a.toNat + 0 := rfl
  have at2 : (a + 2).toNat = a.toNat + 2 := by bv_omega
  have at3 : (a + 3).toNat = a.toNat + 3 := by bv_omega
  refine ⟨fun n m j h => State.bytesIn_store s lr a v h, fun little => ?_, fun big => ?_⟩
  · have read {b : Word} {m j : Nat} := State.valueAt_store_little s lr a v (b := b) (n := 4) (m := m) (j := j) little
    exact ⟨read at0 (by decide), read at3 (by decide), read at0 (by decide), read at2 (by decide)⟩
  · have read {b : Word} {m j : Nat} := State.valueAt_store_big s lr a v (b := b) (n := 4) (m := m) (j := j) big
    exact ⟨read at0 (by decide), read at3 (by decide), read at0 (by decide), read at2 (by decide)⟩

end Sys2Proof.Machine

/-! PROOFS of the family 30_encoding: the 64-bit constant of two slots (spec/30_encoding.md R88). -/

namespace Sys2Proof.Machine

/-- A concatenation as the number its two parts make up, both read without a sign. -/
theorem append_eq_ofNat {n m : Nat} (high : BitVec n) (low : BitVec m) :
    high ++ low = BitVec.ofNat (n + m) (high.toNat * 2 ^ m + low.toNat) := by
  have halves : (high ++ low).toNat = high.toNat * 2 ^ m + low.toNat := by
    rw [BitVec.toNat_append, ← Nat.shiftLeft_add_eq_or_of_lt low.isLt, Nat.shiftLeft_eq]
  rw [← halves, BitVec.ofNat_toNat, BitVec.setWidth_eq]

theorem State.setReg_advance (s : State) (d : WReg) (v : Word) (slots : Nat) :
    (s.setReg d v).advance slots = s.wrote d v slots := rfl

theorem State.finishWide_eq (s : State) (d : WReg) (v : Word) : s.finishWide d v = .next (s.wrote d v 2) := by
  rw [State.finishWide, State.setReg_advance]

theorem exec_lddw (d : WReg) (imm nextImm : Imm) (s : State) :
    exec (.lddw d imm nextImm) s = .next (s.wrote d (nextImm ++ imm) 2) := by
  rw [← State.finishWide_eq]
  rfl

/-- Settles O23: `lddw` writes the concatenation of its halves, which is that number. -/
theorem lddwConstant : Obligations.LddwConstant := by
  intro s d imm nextImm
  rw [exec_lddw, append_eq_ofNat]

end Sys2Proof.Machine

/-! PROOFS of the family 40_alu64: unsigned division and remainder (spec/40_alu64.md R120, R122, spec/41_alu32.md
R160, R162). -/

namespace Sys2Proof.Machine

/-! ## Arithmetic with defined operands -/

theorem State.finish_eq (s : State) (d : WReg) (v : Word) : s.finish d v = .next (s.wrote d v 1) := by
  rw [State.finish, State.setReg_advance]

theorem low32_eq_setWidth (v : Word) : low32 v = v.setWidth 32 :=
  BitVec.eq_of_toNat_eq (by simp [low32])

section
variable {s : State} {d : WReg} {a : Word} (hd : s.reg d.toReg = ⟨a, true⟩)
include hd

theorem alu64Imm_defd (f : Word → Word → Word) (imm : Imm) :
    alu64Imm f d imm s = .next (s.wrote d (f a (imm.signExtend 64)) 1) := by
  rw [alu64Imm, State.withReg_defd hd, State.finish_eq, sext64]

theorem alu32Imm_defd (f : BitVec 32 → BitVec 32 → BitVec 32) (imm : Imm) :
    alu32Imm f d imm s = .next (s.wrote d ((f (a.setWidth 32) imm).setWidth 64) 1) := by
  rw [alu32Imm, State.withReg_defd hd, State.finish_eq, low32_eq_setWidth, zext64]

variable {src : Reg} {b : Word} (hs : s.reg src = ⟨b, true⟩)
include hs

theorem alu64Reg_defd (f : Word → Word → Word) : alu64Reg f d src s = .next (s.wrote d (f a b) 1) := by
  rw [alu64Reg, State.withReg_defd hd, State.withReg_defd hs, State.finish_eq]

theorem alu32Reg_defd (f : BitVec 32 → BitVec 32 → BitVec 32) :
    alu32Reg f d src s = .next (s.wrote d ((f (a.setWidth 32) (b.setWidth 32)).setWidth 64) 1) := by
  rw [alu32Reg, State.withReg_defd hd, State.withReg_defd hs, State.finish_eq, low32_eq_setWidth, low32_eq_setWidth,
    zext64]

end

/-! ## The operations the instructions run -/

theorem exec_div64Imm (d : WReg) (imm : Imm) (s : State) : exec (.div64Imm d imm) s = alu64Imm divOrZero d imm s := rfl
theorem exec_mod64Imm (d : WReg) (imm : Imm) (s : State) : exec (.mod64Imm d imm) s = alu64Imm modOrKeep d imm s := rfl
theorem exec_div32Imm (d : WReg) (imm : Imm) (s : State) : exec (.div32Imm d imm) s = alu32Imm divOrZero d imm s := rfl
theorem exec_mod32Imm (d : WReg) (imm : Imm) (s : State) : exec (.mod32Imm d imm) s = alu32Imm modOrKeep d imm s := rfl
theorem exec_div64Reg (d : WReg) (src : Reg) (s : State) : exec (.div64Reg d src) s = alu64Reg divOrZero d src s := rfl
theorem exec_mod64Reg (d : WReg) (src : Reg) (s : State) : exec (.mod64Reg d src) s = alu64Reg modOrKeep d src s := rfl
theorem exec_div32Reg (d : WReg) (src : Reg) (s : State) : exec (.div32Reg d src) s = alu32Reg divOrZero d src s := rfl
theorem exec_mod32Reg (d : WReg) (src : Reg) (s : State) : exec (.mod32Reg d src) s = alu32Reg modOrKeep d src s := rfl

/-! ## Quotient and remainder -/

/-- R122, R162: the quotient is 0 for a zero divisor, else the greatest number whose product with it is at most the
dividend. -/
theorem divOrZero_spec {w : Nat} (a b : BitVec w) :
    (b = 0 → divOrZero a b = 0) ∧
    (b ≠ 0 → (divOrZero a b).toNat * b.toNat ≤ a.toNat ∧ a.toNat < ((divOrZero a b).toNat + 1) * b.toNat) := by
  refine ⟨fun zero => if_pos zero, fun nonzero => ?_⟩
  rw [divOrZero, if_neg nonzero, BitVec.toNat_udiv]
  exact ⟨Nat.div_mul_le_self _ _, Nat.mul_comm _ _ ▸ Nat.lt_mul_div_succ _ (BitVec.toNat_pos_of_ne_zero nonzero)⟩

/-- R122, R162: the remainder is the dividend for a zero divisor, else below the divisor and what a multiple of it
leaves. -/
theorem modOrKeep_spec {w : Nat} (a b : BitVec w) :
    (b = 0 → modOrKeep a b = a) ∧
    (b ≠ 0 → (modOrKeep a b).toNat < b.toNat ∧ ∃ q : Nat, a.toNat = q * b.toNat + (modOrKeep a b).toNat) := by
  refine ⟨fun zero => if_pos zero, fun nonzero => ?_⟩
  rw [modOrKeep, if_neg nonzero, BitVec.toNat_umod]
  exact ⟨Nat.mod_lt _ (BitVec.toNat_pos_of_ne_zero nonzero), a.toNat / b.toNat, (Nat.div_add_mod' _ _).symm⟩

/-- Settles O6: each instruction writes `divOrZero` or `modOrKeep` of its operands, which `divOrZero_spec` and
`modOrKeep_spec` pin at every width. -/
theorem divModUnsigned : Obligations.DivModUnsigned := by
  intro s d src imm a b hd
  simp only [exec_div64Imm, exec_mod64Imm, exec_div32Imm, exec_mod32Imm, exec_div64Reg, exec_mod64Reg, exec_div32Reg,
    exec_mod32Reg]
  refine ⟨⟨_, alu64Imm_defd hd divOrZero imm, divOrZero_spec _ _⟩,
    ⟨_, alu64Imm_defd hd modOrKeep imm, modOrKeep_spec _ _⟩,
    ⟨_, alu32Imm_defd hd divOrZero imm, divOrZero_spec _ _⟩,
    ⟨_, alu32Imm_defd hd modOrKeep imm, modOrKeep_spec _ _⟩, fun hs => ?_⟩
  exact ⟨⟨_, alu64Reg_defd hd hs divOrZero, divOrZero_spec _ _⟩,
    ⟨_, alu64Reg_defd hd hs modOrKeep, modOrKeep_spec _ _⟩,
    ⟨_, alu32Reg_defd hd hs divOrZero, divOrZero_spec _ _⟩,
    ⟨_, alu32Reg_defd hd hs modOrKeep, modOrKeep_spec _ _⟩⟩

end Sys2Proof.Machine

/-! PROOFS of the family 45_call_exit: the limit of BPF-local calls (spec/45_call_exit.md R281, R283, R286). -/

namespace Sys2Proof.Machine

theorem exec_callLocal (off : Off) (imm : Imm) (s : State) :
    exec (.callLocal off imm) s = s.call (callDisp s.cfg.localCallField off imm) := rfl

/-- The displacement in the words of the statements (R281). -/
theorem callDisp_eq_ite (lcf : LocalCallField) (off : Off) (imm : Imm) :
    callDisp lcf off imm = if lcf = .offset then off.toInt else imm.toInt := by
  cases lcf <;> rfl

theorem State.call_atLimit {s : State} (limit : s.frames.length = Config.maxCallDepth s.cfg) (disp : Int) :
    s.call disp = .next (s.faultedWith (.callDepth s.pc)) :=
  if_pos limit

theorem State.call_enters {s : State} {disp : Int} {n : Nat} (room : s.frames.length ≠ Config.maxCallDepth s.cfg)
    (target : (n : Int) = s.pc + 1 + disp) : s.call disp = .next (s.enter n) := by
  rw [State.call, if_neg room, target?_some.mpr target]

/-- Settles O27: `call_local` is `State.call`, which faults at the limit (`State.call_atLimit`); below it a target that
is a slot index is entered (`State.call_enters`), one record more and the status kept. -/
theorem callDepthLimit : Obligations.CallDepthLimit := by
  intro s off imm
  rw [exec_callLocal, ← callDisp_eq_ite]
  refine ⟨fun limit => State.call_atLimit limit _, fun below slot => ?_⟩
  obtain ⟨n, target⟩ := Int.eq_ofNat_of_zero_le slot
  exact ⟨s.enter n, State.call_enters (Nat.ne_of_lt below) target.symm, by rw [State.enter_frames, List.length_cons],
    State.enter_status s n⟩

end Sys2Proof.Machine

/-! PROOFS of the family 47_atomic: the traps of the atomic operations, in their order (spec/47_atomic.md R326). -/

namespace Sys2Proof.Machine

/-! ## Reading registers in order -/

theorem State.withReg_of_defd {s : State} {r : Reg} (defd : (s.reg r).defd = true) (k : Word → Result) :
    s.withReg r k = k (s.reg r).val :=
  if_pos defd

theorem State.firstUndefined_cons_undef {s : State} {r : Reg} (undef : (s.reg r).defd = false) (rs : List Reg) :
    s.firstUndefined (r :: rs) = some r := by
  simp [State.firstUndefined, undef]

theorem State.firstUndefined_cons_defd {s : State} {r : Reg} (defd : (s.reg r).defd = true) (rs : List Reg) :
    s.firstUndefined (r :: rs) = s.firstUndefined rs := by
  simp [State.firstUndefined, defd]

/-- The first undefined register of the list is the one that is faulted (R406, R414). -/
theorem State.withRegs_undef {s : State} {rs : List Reg} {r : Reg} (undef : s.firstUndefined rs = some r)
    (k : List Word → Result) : s.withRegs rs k = .next (s.faultedWith (.uninitRegister r)) := by
  induction rs generalizing k with
  | nil => cases undef
  | cons head rs ih =>
    cases mark : (s.reg head).defd with
    | false =>
      obtain rfl : head = r := Option.some.inj (State.firstUndefined_cons_undef mark rs ▸ undef)
      exact State.withReg_undef mark _
    | true =>
      rw [State.withRegs, State.withReg_of_defd mark, ih (State.firstUndefined_cons_defd mark rs ▸ undef)]

theorem State.withRegs_defd {s : State} {rs : List Reg} (defd : s.firstUndefined rs = none)
    (k : List Word → Result) : s.withRegs rs k = k (rs.map fun r => (s.reg r).val) := by
  induction rs generalizing k with
  | nil => rfl
  | cons head rs ih =>
    cases mark : (s.reg head).defd with
    | false => cases State.firstUndefined_cons_undef mark rs ▸ defd
    | true =>
      rw [State.withRegs, State.withReg_of_defd mark, ih (State.firstUndefined_cons_defd mark rs ▸ defd), List.map_cons]

/-! ## The traps of the read-modify-write -/

section
variable {s : State} {a : Word} {n : Nat}

theorem State.atomicRMW_misaligned (unaligned : a.toNat % n ≠ 0) (f : Word → Word) (k : Word → State → Result) :
    s.atomicRMW a n f k = .next (s.faultedWith (.misaligned a)) :=
  if_pos (decide_eq_true unaligned)

theorem State.atomicRMW_noRegion (aligned : a.toNat % n = 0) (noRegion : s.region? .rmw a n = none) (f : Word → Word)
    (k : Word → State → Result) : s.atomicRMW a n f k = .next (s.faultedWith (.memAccess a)) := by
  have passes : ¬ misaligned a n = true := by simpa [misaligned] using aligned
  rw [State.atomicRMW, if_neg passes, noRegion]
  rfl

end

/-! ## The atomic operations -/

/-- An atomic operation is one of the three meanings: without fetch, with fetch, compare and exchange. -/
theorem exec_atomic_cases (s : State) {i : Instr} {b : Reg} {off : Off} {n : Nat} (atomic : Instr.isAtomic i = true)
    (stores : Instr.storesTo i = some (b, off, n)) :
    (∃ op src, Instr.reads s i = [b, src] ∧ exec i s = atomicOp n op b off src s) ∨
    (∃ op, ∃ src : WReg, Instr.reads s i = [b, src.toReg] ∧ exec i s = atomicFetch n op b off src s) ∨
    (∃ cut src, Instr.reads s i = [b, src, 0] ∧ exec i s = atomicCmpxchg n cut b off src s) := by
  cases i with
  | atomicAdd32 | atomicOr32 | atomicAnd32 | atomicXor32 | atomicAdd64 | atomicOr64 | atomicAnd64 | atomicXor64 =>
    cases stores
    exact .inl ⟨_, _, rfl, rfl⟩
  | atomicFetchAdd32 | atomicFetchOr32 | atomicFetchAnd32 | atomicFetchXor32 | atomicXchg32
  | atomicFetchAdd64 | atomicFetchOr64 | atomicFetchAnd64 | atomicFetchXor64 | atomicXchg64 =>
    cases stores
    exact .inr (.inl ⟨_, _, rfl, rfl⟩)
  | atomicCmpxchg32 | atomicCmpxchg64 =>
    cases stores
    exact .inr (.inr ⟨_, _, rfl, rfl⟩)
  | _ => cases atomic

/-- An atomic operation reads its registers, the base first, and runs `AtomicRMW` at the effective address (R326). -/
theorem exec_atomic (s : State) {i : Instr} {b : Reg} {off : Off} {n : Nat} (atomic : Instr.isAtomic i = true)
    (stores : Instr.storesTo i = some (b, off, n)) :
    ∃ rs, Instr.reads s i = b :: rs ∧ ∃ (f : List Word → Word → Word) (k : Word → State → Result),
      exec i s = s.withRegs (b :: rs) fun vs => s.atomicRMW (effAddr (vs.headD 0) off) n (f vs) k := by
  obtain ⟨op, src, reads, runs⟩ | ⟨op, src, reads, runs⟩ | ⟨cut, src, reads, runs⟩ := exec_atomic_cases s atomic stores
  · exact ⟨_, reads, fun vs old => op old (vs.getD 1 0), fun _ s' => .next (s'.advance 1), runs⟩
  · exact ⟨_, reads, fun vs old => op old (vs.getD 1 0), fun old s' => s'.finish src old, runs⟩
  · exact ⟨_, reads, fun vs old => if old = cut (vs.getD 2 0) then cut (vs.getD 1 0) else old,
      fun old s' => s'.finish 0 old, runs⟩

/-- Settles O22: an atomic operation reads its registers in order and runs `AtomicRMW` (`exec_atomic`), which checks the
alignment and then the region. -/
theorem atomicTraps : Obligations.AtomicTraps := by
  intro s i b off n atomic stores
  obtain ⟨rs, reads, f, k, runs⟩ := exec_atomic s atomic stores
  rw [reads, runs]
  refine ⟨fun r undef => State.withRegs_undef undef _, fun defd base holds => ?_⟩
  have address : effAddr (((b :: rs).map fun r => (s.reg r).val).headD 0) off = base + off.signExtend 64 := by
    rw [List.map_cons, List.headD_cons, holds, effAddr, sextOff]
  rw [State.withRegs_defd defd, address]
  exact ⟨fun unaligned => State.atomicRMW_misaligned unaligned _ _,
    fun aligned noRegion => State.atomicRMW_noRegion aligned noRegion _ _⟩

end Sys2Proof.Machine

/-! PROOFS of the family 60_exceptions: faults are precise, and only a running state steps (spec/60_exceptions.md R403,
R404). -/

namespace Sys2Proof.Machine

/-! ## Which states step -/

theorem State.isFaulted_eq_false_iff {s : State} : s.isFaulted = false ↔ ∀ k, s.status ≠ .faulted k := by
  unfold State.isFaulted
  cases s.status <;> simp

theorem State.isFaulted_of_running {s : State} (running : s.status = .running) : s.isFaulted = false :=
  State.isFaulted_eq_false_iff.2 fun k faulted => by cases running.symm.trans faulted

/-- Everything a step can do: it begins in a running state, and executes what is fetched or takes the fault of the
fetch. -/
theorem step_next {s t : State} (stepped : step s = .next t) :
    s.status = .running ∧ ((∃ i, s.takeEnv.fetch = .ok i ∧ exec i s.takeEnv = .next t) ∨
      ∃ k, s.takeEnv.fetch = .error k ∧ t = s.takeEnv.faultedWith k) := by
  unfold step at stepped
  split at stepped
  · refine ⟨‹_›, ?_⟩
    split at stepped
    · exact .inl ⟨_, ‹_›, stepped⟩
    · exact .inr ⟨_, ‹_›, State.raise_next stepped⟩
  · cases stepped

theorem step_ne_next_of_not_running {s : State} (notRunning : s.status ≠ .running) (t : State) : step s ≠ .next t :=
  fun stepped => notRunning (step_next stepped).1

/-- Settles O34: a step needs a running state (`step_next`), and the one final status is `exited`. -/
theorem onlyRunningSteps : Obligations.OnlyRunningSteps := by
  intro s
  refine ⟨fun k faulted => ⟨step_ne_next_of_not_running (by simp [faulted]), fun v => ?_⟩,
    fun v exited => step_ne_next_of_not_running (by simp [exited])⟩
  simp [State.exitsWith, faulted]

/-! ## Precise results -/

/-- What an instruction begun in `s` answers is precise: its next state is `s` with a fault's status and nothing else
changed, or is not faulted (R404). -/
def PreciseFrom (s : State) (r : Result) : Prop :=
  ∀ t, r = .next t → (∃ k, t = s.faultedWith k) ∨ t.isFaulted = false

theorem PreciseFrom.eq_faultedWith {s t : State} {r : Result} {k : FaultKind} (precise : PreciseFrom s r)
    (answers : r = .next t) (faulted : t.status = .faulted k) : t = s.faultedWith k := by
  obtain ⟨k', rfl⟩ | notFaulted := precise t answers
  · cases faulted
    rfl
  · exact absurd faulted (State.isFaulted_eq_false_iff.1 notFaulted k)

section

variable {s : State}

theorem preciseFrom_refused (r : Refusal) : PreciseFrom s (.refused r) := fun _ answers => by cases answers

theorem preciseFrom_of_running {u : State} (running : u.status = .running) : PreciseFrom s (.next u) := by
  intro t answers
  cases answers
  exact .inr (State.isFaulted_of_running running)

theorem preciseFrom_finish {u : State} (running : u.status = .running) (d : WReg) (v : Word) :
    PreciseFrom s (u.finish d v) :=
  preciseFrom_of_running running

/-! ## The shared operations: each raises its fault before the first write -/

theorem PreciseFrom.withReg {i : Reg} {k : Word → Result} (rest : ∀ v, PreciseFrom s (k v)) :
    PreciseFrom s (s.withReg i k) := by
  intro t answers
  obtain ⟨-, answers⟩ | ⟨-, fault⟩ := State.withReg_next answers
  · exact rest _ t answers
  · exact .inl ⟨_, fault⟩

theorem PreciseFrom.withShift {w : Nat} {b : BitVec w} {k : Nat → Result} (rest : ∀ n, PreciseFrom s (k n)) :
    PreciseFrom s (s.withShift b k) := by
  intro t answers
  obtain ⟨n, -, answers⟩ := State.withShift_next answers
  exact rest n t answers

theorem PreciseFrom.withOperand {v : Option Word} {k : Word → Result} (rest : ∀ a, PreciseFrom s (k a)) :
    PreciseFrom s (s.withOperand v k) := by
  intro t answers
  obtain ⟨a, -, answers⟩ := State.withOperand_next answers
  exact rest a t answers

theorem PreciseFrom.withTarget {d : Int} {k : Nat → Result} (rest : ∀ n, PreciseFrom s (k n)) :
    PreciseFrom s (s.withTarget d k) := by
  intro t answers
  obtain ⟨n, -, answers⟩ := State.withTarget_next answers
  exact rest n t answers

variable (running : s.status = .running)
include running

theorem preciseFrom_finishWide (d : WReg) (v : Word) : PreciseFrom s (s.finishWide d v) :=
  preciseFrom_of_running running

theorem preciseFrom_jump (d : Int) : PreciseFrom s (s.jump d) := by
  intro t answers
  obtain ⟨n, -, rfl⟩ := State.jump_next answers
  exact .inr (State.isFaulted_of_running running)

theorem preciseFrom_branch (c : Bool) (off : Off) : PreciseFrom s (s.branch c off) := by
  cases c with
  | true => exact preciseFrom_jump running _
  | false => exact preciseFrom_of_running running

theorem PreciseFrom.memRead {a : Word} {n : Nat} {k : Word → State → Result}
    (rest : ∀ v u, u.status = .running → PreciseFrom s (k v u)) : PreciseFrom s (s.memRead a n k) := by
  intro t answers
  obtain fault | ⟨-, fault⟩ | ⟨lr, -, answers⟩ := State.memRead_next answers
  · exact .inl ⟨_, fault⟩
  · exact .inl ⟨_, fault⟩
  · exact rest _ _ (by simpa using running) t answers

theorem PreciseFrom.memWrite {a v : Word} {n : Nat} {k : State → Result}
    (rest : ∀ u, u.status = .running → PreciseFrom s (k u)) : PreciseFrom s (s.memWrite a n v k) := by
  intro t answers
  obtain fault | ⟨-, fault⟩ | ⟨lr, -, answers⟩ := State.memWrite_next answers
  · exact .inl ⟨_, fault⟩
  · exact .inl ⟨_, fault⟩
  · exact rest _ (by simpa using running) t answers

theorem PreciseFrom.atomicRMW {a : Word} {n : Nat} {f : Word → Word} {k : Word → State → Result}
    (rest : ∀ v u, u.status = .running → PreciseFrom s (k v u)) : PreciseFrom s (s.atomicRMW a n f k) := by
  intro t answers
  obtain fault | ⟨-, fault⟩ | ⟨lr, -, answers⟩ := State.atomicRMW_next answers
  · exact .inl ⟨_, fault⟩
  · exact .inl ⟨_, fault⟩
  · exact rest _ _ (by simpa using running) t answers

theorem preciseFrom_call (d : Int) : PreciseFrom s (s.call d) := by
  intro t answers
  obtain ⟨-, fault⟩ | ⟨-, n, -, rfl⟩ := State.call_next answers
  · exact .inl ⟨_, fault⟩
  · exact .inr (State.isFaulted_of_running (by simpa using running))

theorem preciseFrom_ret : PreciseFrom s s.ret := by
  intro t answers
  obtain ⟨-, -, rfl⟩ | ⟨-, -, fault⟩ | ⟨r, rest, -, rfl⟩ := State.ret_next answers
  · exact .inr rfl
  · exact .inl ⟨_, fault⟩
  · exact .inr (State.isFaulted_of_running (by simpa using running))

theorem preciseFrom_helper (sp : HelperSpace) (table : List (Imm × Helper)) (id : Imm) :
    PreciseFrom s (s.helper sp table id) := by
  intro t answers
  obtain ⟨e, -, ⟨i, -, -, fault⟩ | ⟨info, fault⟩ | ⟨v, w, rfl⟩⟩ := State.helper_next answers
  · exact .inl ⟨_, fault⟩
  · exact .inl ⟨_, fault⟩
  · exact .inr (State.isFaulted_of_running (by simpa using running))

/-! ## The shapes of the instructions -/

theorem preciseFrom_alu64Imm (f : Word → Word → Word) (d : WReg) (imm : Imm) : PreciseFrom s (alu64Imm f d imm s) :=
  .withReg fun _ => preciseFrom_finish running d _

theorem preciseFrom_alu64Reg (f : Word → Word → Word) (d : WReg) (src : Reg) : PreciseFrom s (alu64Reg f d src s) :=
  .withReg fun _ => .withReg fun _ => preciseFrom_finish running d _

theorem preciseFrom_alu32Imm (f : BitVec 32 → BitVec 32 → BitVec 32) (d : WReg) (imm : Imm) :
    PreciseFrom s (alu32Imm f d imm s) :=
  .withReg fun _ => preciseFrom_finish running d _

theorem preciseFrom_alu32Reg (f : BitVec 32 → BitVec 32 → BitVec 32) (d : WReg) (src : Reg) :
    PreciseFrom s (alu32Reg f d src s) :=
  .withReg fun _ => .withReg fun _ => preciseFrom_finish running d _

theorem preciseFrom_shift64Imm (f : Word → Nat → Word) (d : WReg) (imm : Imm) :
    PreciseFrom s (shift64Imm f d imm s) :=
  .withReg fun _ => .withShift fun _ => preciseFrom_finish running d _

theorem preciseFrom_shift64Reg (f : Word → Nat → Word) (d : WReg) (src : Reg) :
    PreciseFrom s (shift64Reg f d src s) :=
  .withReg fun _ => .withReg fun _ => .withShift fun _ => preciseFrom_finish running d _

theorem preciseFrom_shift32Imm (f : BitVec 32 → Nat → BitVec 32) (d : WReg) (imm : Imm) :
    PreciseFrom s (shift32Imm f d imm s) :=
  .withReg fun _ => .withShift fun _ => preciseFrom_finish running d _

theorem preciseFrom_shift32Reg (f : BitVec 32 → Nat → BitVec 32) (d : WReg) (src : Reg) :
    PreciseFrom s (shift32Reg f d src s) :=
  .withReg fun _ => .withReg fun _ => .withShift fun _ => preciseFrom_finish running d _

theorem preciseFrom_jump64Imm (cond : Word → Word → Bool) (d : Reg) (imm : Imm) (off : Off) :
    PreciseFrom s (jump64Imm cond d imm off s) :=
  .withReg fun _ => preciseFrom_branch running _ off

theorem preciseFrom_jump64Reg (cond : Word → Word → Bool) (d src : Reg) (off : Off) :
    PreciseFrom s (jump64Reg cond d src off s) :=
  .withReg fun _ => .withReg fun _ => preciseFrom_branch running _ off

theorem preciseFrom_jump32Imm (cond : BitVec 32 → BitVec 32 → Bool) (d : Reg) (imm : Imm) (off : Off) :
    PreciseFrom s (jump32Imm cond d imm off s) :=
  .withReg fun _ => preciseFrom_branch running _ off

theorem preciseFrom_jump32Reg (cond : BitVec 32 → BitVec 32 → Bool) (d src : Reg) (off : Off) :
    PreciseFrom s (jump32Reg cond d src off s) :=
  .withReg fun _ => .withReg fun _ => preciseFrom_branch running _ off

theorem preciseFrom_load (n : Nat) (d : WReg) (src : Reg) (off : Off) : PreciseFrom s (load n d src off s) :=
  .withReg fun _ => .memRead running fun _ _ still => preciseFrom_finish still d _

theorem preciseFrom_storeImm (n : Nat) (base : Reg) (off : Off) (imm : Imm) :
    PreciseFrom s (storeImm n base off imm s) :=
  .withReg fun _ => .memWrite running fun _ still => preciseFrom_of_running still

theorem preciseFrom_storeReg (n : Nat) (base : Reg) (off : Off) (src : Reg) :
    PreciseFrom s (storeReg n base off src s) :=
  .withReg fun _ => .withReg fun _ => .memWrite running fun _ still => preciseFrom_of_running still

theorem preciseFrom_atomicOp (n : Nat) (op : Word → Word → Word) (base : Reg) (off : Off) (src : Reg) :
    PreciseFrom s (atomicOp n op base off src s) :=
  .withReg fun _ => .withReg fun _ => .atomicRMW running fun _ _ still => preciseFrom_of_running still

theorem preciseFrom_atomicFetch (n : Nat) (op : Word → Word → Word) (base : Reg) (off : Off) (src : WReg) :
    PreciseFrom s (atomicFetch n op base off src s) :=
  .withReg fun _ => .withReg fun _ => .atomicRMW running fun _ _ still => preciseFrom_finish still src _

theorem preciseFrom_atomicCmpxchg (n : Nat) (cut : Word → Word) (base : Reg) (off : Off) (src : Reg) :
    PreciseFrom s (atomicCmpxchg n cut base off src s) :=
  .withReg fun _ => .withReg fun _ => .withReg fun _ =>
    .atomicRMW running fun _ _ still => preciseFrom_finish still 0 _

/-! ## Every instruction -/

/-- Every instruction that begins in a running state is precise: it reads its registers and makes its checks, each of which
may raise a fault, and only then writes (R404). -/
theorem exec_preciseFrom (i : Instr) : PreciseFrom s (exec i s) := by
  cases i with
  | add64Imm | sub64Imm | mul64Imm | div64Imm | or64Imm | and64Imm | mod64Imm | xor64Imm =>
    exact preciseFrom_alu64Imm running _ _ _
  | add64Reg | sub64Reg | mul64Reg | div64Reg | or64Reg | and64Reg | mod64Reg | xor64Reg =>
    exact preciseFrom_alu64Reg running _ _ _
  | add32Imm | sub32Imm | mul32Imm | div32Imm | or32Imm | and32Imm | mod32Imm | xor32Imm =>
    exact preciseFrom_alu32Imm running _ _ _
  | add32Reg | sub32Reg | mul32Reg | div32Reg | or32Reg | and32Reg | mod32Reg | xor32Reg =>
    exact preciseFrom_alu32Reg running _ _ _
  | lsh64Imm | rsh64Imm | arsh64Imm => exact preciseFrom_shift64Imm running _ _ _
  | lsh64Reg | rsh64Reg | arsh64Reg => exact preciseFrom_shift64Reg running _ _ _
  | lsh32Imm | rsh32Imm | arsh32Imm => exact preciseFrom_shift32Imm running _ _ _
  | lsh32Reg | rsh32Reg | arsh32Reg => exact preciseFrom_shift32Reg running _ _ _
  | mov64Imm | mov32Imm => exact preciseFrom_finish running _ _
  | mov64Reg | mov32Reg | neg64 | neg32 | le16 | le32 | le64 | be16 | be32 | be64 =>
    unfold exec
    simp only [execMov64Reg, execMov32Reg, execNeg64, execNeg32, execLe16, execLe32, execLe64, execBe16, execBe32,
      execBe64]
    exact .withReg fun _ => preciseFrom_finish running _ _
  | ja => exact preciseFrom_jump running _
  | jeqImm | jgtImm | jgeImm | jsetImm | jneImm | jsgtImm | jsgeImm | jltImm | jleImm | jsltImm | jsleImm =>
    exact preciseFrom_jump64Imm running _ _ _ _
  | jeqReg | jgtReg | jgeReg | jsetReg | jneReg | jsgtReg | jsgeReg | jltReg | jleReg | jsltReg | jsleReg =>
    exact preciseFrom_jump64Reg running _ _ _ _
  | jeq32Imm | jgt32Imm | jge32Imm | jset32Imm | jne32Imm | jsgt32Imm | jsge32Imm | jlt32Imm | jle32Imm | jslt32Imm
  | jsle32Imm =>
    exact preciseFrom_jump32Imm running _ _ _ _
  | jeq32Reg | jgt32Reg | jge32Reg | jset32Reg | jne32Reg | jsgt32Reg | jsge32Reg | jlt32Reg | jle32Reg | jslt32Reg
  | jsle32Reg =>
    exact preciseFrom_jump32Reg running _ _ _ _
  | callHelper | callPlatform => exact preciseFrom_helper running _ _ _
  | callLocal => exact preciseFrom_call running _
  | exit => exact preciseFrom_ret running
  | ldxw | ldxh | ldxb | ldxdw => exact preciseFrom_load running _ _ _ _
  | stw | sth | stb | stdw => exact preciseFrom_storeImm running _ _ _ _
  | stxw | stxh | stxb | stxdw => exact preciseFrom_storeReg running _ _ _ _
  | atomicAdd32 | atomicOr32 | atomicAnd32 | atomicXor32 | atomicAdd64 | atomicOr64 | atomicAnd64 | atomicXor64 =>
    exact preciseFrom_atomicOp running _ _ _ _ _
  | atomicFetchAdd32 | atomicFetchOr32 | atomicFetchAnd32 | atomicFetchXor32 | atomicXchg32
  | atomicFetchAdd64 | atomicFetchOr64 | atomicFetchAnd64 | atomicFetchXor64 | atomicXchg64 =>
    exact preciseFrom_atomicFetch running _ _ _ _ _
  | atomicCmpxchg32 | atomicCmpxchg64 => exact preciseFrom_atomicCmpxchg running _ _ _ _ _
  | lddw => exact preciseFrom_finishWide running _ _
  | ldMapFd | ldMapIdx | ldVarAddr | ldMapFdValue | ldMapIdxValue =>
    exact .withOperand fun _ => preciseFrom_finishWide running _ _
  | ldCodeAddr => exact .withTarget fun _ => preciseFrom_finishWide running _ _
  | ldabsw | ldabsh | ldabsb | ldabsdw | ldindw | ldindh | ldindb | ldinddw => exact preciseFrom_refused _

end

/-- Settles O33: every instruction is precise (`exec_preciseFrom`), a step runs one after the other agents' writes or takes
the fault of the fetch (`step_next`), and a faulted state has no step. -/
theorem faultsArePrecise : Obligations.FaultsArePrecise := by
  intro s t k running faulted
  refine ⟨fun i ran => (exec_preciseFrom running i).eq_faultedWith ran faulted, fun stepped => ⟨?_, fun u => ?_⟩⟩
  · obtain ⟨-, ⟨i, -, ran⟩ | ⟨k', -, rfl⟩⟩ := step_next stepped
    · exact (exec_preciseFrom (by simpa using running) i).eq_faultedWith ran faulted
    · cases faulted
      rfl
  · exact step_ne_next_of_not_running (by simp [faulted]) u

end Sys2Proof.Machine

/-! PROOFS of the family other: everything an instruction can answer, said once (spec/10_state.md R37, spec/20_memory.md
R69, spec/60_exceptions.md R404, R405); the invariants of a step are read off it. -/

namespace Sys2Proof.Machine

/-! ## What an instruction can answer -/

/-- Everything instruction `i`, begun in `s`, can make of the state: one way for each way the instructions change it. -/
inductive Effect (s : State) (i : Instr) : State → Prop
  /-- A fault other than that of a fetch; nothing else changes (R404). -/
  | fault (k : FaultKind) (notOfFetch : ∀ pc, k ≠ .illegalInstruction pc) : Effect s i (s.faultedWith k)
  /-- A listed register is written, perhaps after a draw. -/
  | write (d : WReg) (v : Word) (draws : Nat) (listed : d.toReg ∈ Instr.writes i) :
      Effect s i ({ s with draws := draws }.wrote d v i.slots)
  /-- A conditional jump that is not taken. -/
  | pass (oneSlot : i.slots = 1) : Effect s i (s.at (s.pc + 1))
  /-- A jump that is taken. -/
  | jump (disp : Int) (n : Nat) (names : Instr.disp? s.cfg.localCallField i = some disp)
      (target : target? s.pc disp = some n) : Effect s i (s.at n)
  /-- A store, or an atomic operation that writes no register, perhaps after a draw. -/
  | store (b : Reg) (off : Off) (n : Nat) (v : Word) (need : Access) (lr : LiveRegion) (draws : Nat)
      (oneSlot : i.slots = 1) (stores : Instr.storesTo i = some (b, off, n))
      (found : s.region? need (effAddr (s.reg b).val off) n = some lr) :
      Effect s i ({ s with draws := draws }.stored (effAddr (s.reg b).val off) n v)
  /-- An atomic operation that writes a listed register, perhaps after a draw. -/
  | exchange (b : Reg) (off : Off) (n : Nat) (v : Word) (lr : LiveRegion) (draws : Nat) (d : WReg) (old : Word)
      (oneSlot : i.slots = 1) (stores : Instr.storesTo i = some (b, off, n)) (listed : d.toReg ∈ Instr.writes i)
      (found : s.region? .rmw (effAddr (s.reg b).val off) n = some lr) :
      Effect s i (({ s with draws := draws }.store (effAddr (s.reg b).val off) n v).wrote d old 1)
  /-- A BPF-local call. -/
  | enter (off : Off) (imm : Imm) (n : Nat) (isCall : i = .callLocal off imm)
      (room : s.frames.length ≠ Config.maxCallDepth s.cfg)
      (target : target? s.pc (callDisp s.cfg.localCallField off imm) = some n) : Effect s i (s.enter n)
  /-- A return from a BPF-local function. -/
  | leave (r : CallRecord) (rest : List CallRecord) (isExit : i = .exit) (top : s.frames = r :: rest) :
      Effect s i (s.leave r rest)
  /-- The end of the program. -/
  | finished (v : Word) (isExit : i = .exit) (outermost : s.frames = []) : Effect s i { s with status := .exited v }
  /-- The return of a helper. -/
  | helped (v : Option Word) (cells : List Host.Cell) (id : Imm) (isCall : i = .callHelper id ∨ i = .callPlatform id) :
      Effect s i (s.afterHelper v cells)

/-- Everything instruction `i` can be refused for in `s`: what is wrong with it (R405; log 11, log 12). -/
inductive Refuses (s : State) (i : Instr) : Refusal → Prop
  /-- A jump, BPF-local call or code address to before slot 0. -/
  | badTarget (disp : Int) (names : Instr.disp? s.cfg.localCallField i = some disp) (none : target? s.pc disp = none) :
      Refuses s i (.badTarget s.pc)
  /-- A shift amount out of range. -/
  | shiftRange (refuses : s.cfg.shiftPolicy = .refuse) : Refuses s i (.shiftRange s.pc)
  /-- A map or variable the platform lacks. -/
  | unsupported (lacks : i.operandSupported s.cfg = false) : Refuses s i (.unsupported s.pc)
  /-- A helper the platform lacks. -/
  | unknownHelper (lacks : i.helperKnown s.cfg = false) : Refuses s i (.unknownHelper s.pc)
  /-- A legacy packet load. -/
  | legacy (isLegacy : i.isLegacy = true) : Refuses s i (.legacy s.pc)

/-- An instruction answers a next state or a refusal, and no Lean fault. -/
inductive Answers (s : State) (i : Instr) : Result → Prop
  | next {t : State} (effect : Effect s i t) : Answers s i (.next t)
  | refused {r : Refusal} (why : Refuses s i r) : Answers s i (.refused r)

section

variable {s : State} {i : Instr}

/-! ## The shared operations -/

theorem State.load_draws (s : State) (lr : LiveRegion) (a : Word) (n : Nat) :
    ∃ draws, (s.load lr a n).2 = { s with draws := draws } :=
  (s.load_state lr a n).elim (fun same => ⟨s.draws, same⟩) fun drawn => ⟨s.draws + 1, drawn⟩

theorem Answers.finish {d : WReg} (v : Word) (draws : Nat) (oneSlot : i.slots = 1) (listed : d.toReg ∈ Instr.writes i) :
    Answers s i ({ s with draws := draws }.finish d v) := by
  rw [State.finish_eq, ← oneSlot]
  exact .next (.write d v draws listed)

theorem Answers.finishWide {d : WReg} (v : Word) (twoSlots : i.slots = 2) (listed : d.toReg ∈ Instr.writes i) :
    Answers s i (s.finishWide d v) := by
  rw [State.finishWide_eq, ← twoSlots]
  exact .next (.write d v s.draws listed)

theorem Answers.withShift {w : Nat} {b : BitVec w} {k : Nat → Result} (rest : ∀ n, Answers s i (k n)) :
    Answers s i (s.withShift b k) := by
  unfold State.withShift
  split
  · exact rest _
  · rename_i none
    refine .refused (.shiftRange ?_)
    cases policy : s.cfg.shiftPolicy with
    | mask => simp [shiftAmount?, policy] at none
    | refuse => rfl

theorem Answers.withOperand {v : Option Word} {k : Word → Result} (supported : i.operandSupported s.cfg = v.isSome)
    (rest : ∀ a, Answers s i (k a)) : Answers s i (s.withOperand v k) := by
  cases v with
  | some a => exact rest a
  | none => exact .refused (.unsupported supported)

theorem Answers.withTarget {disp : Int} {k : Nat → Result} (names : Instr.disp? s.cfg.localCallField i = some disp)
    (rest : ∀ n, Answers s i (k n)) : Answers s i (s.withTarget disp k) := by
  unfold State.withTarget
  split
  · exact rest _
  · exact .refused (.badTarget disp names ‹_›)

theorem Answers.jumpTo {disp : Int} (names : Instr.disp? s.cfg.localCallField i = some disp) :
    Answers s i (s.jump disp) := by
  unfold State.jump
  split
  · exact .next (.jump disp _ names ‹_›)
  · exact .refused (.badTarget disp names ‹_›)

theorem Answers.branch {cond : Bool} {off : Off} (oneSlot : i.slots = 1)
    (names : Instr.disp? s.cfg.localCallField i = some off.toInt) : Answers s i (s.branch cond off) := by
  cases cond with
  | true => exact .jumpTo names
  | false => exact .next (.pass oneSlot)

theorem Answers.memRead {a : Word} {n : Nat} {k : Word → State → Result}
    (rest : ∀ v draws, Answers s i (k v { s with draws := draws })) : Answers s i (s.memRead a n k) := by
  unfold State.memRead
  split
  · exact .next (.fault _ (by simp))
  · split
    · exact .next (.fault _ (by simp))
    · obtain ⟨draws, after⟩ := s.load_draws _ a n
      rw [after]
      exact rest _ draws

theorem Answers.memWrite {b : Reg} {off : Off} {n : Nat} {v : Word} (oneSlot : i.slots = 1)
    (stores : Instr.storesTo i = some (b, off, n)) :
    Answers s i (s.memWrite (effAddr (s.reg b).val off) n v fun s' => .next (s'.advance 1)) := by
  unfold State.memWrite
  split
  · exact .next (.fault _ (by simp))
  · split
    · exact .next (.fault _ (by simp))
    · exact .next (.store b off n v .write _ s.draws oneSlot stores ‹_›)

theorem Answers.atomicRMW {a : Word} {n : Nat} {f : Word → Word} {k : Word → State → Result}
    (rest : ∀ lr old draws v, s.region? .rmw a n = some lr → Answers s i (k old ({ s with draws := draws }.store a n v))) :
    Answers s i (s.atomicRMW a n f k) := by
  unfold State.atomicRMW
  split
  · exact .next (.fault _ (by simp))
  · split
    · exact .next (.fault _ (by simp))
    · obtain ⟨draws, after⟩ := s.load_draws _ a n
      rw [after]
      exact rest _ _ draws _ ‹_›

theorem Answers.callLocal (off : Off) (imm : Imm) :
    Answers s (.callLocal off imm) (s.call (callDisp s.cfg.localCallField off imm)) := by
  unfold State.call
  split
  · exact .next (.fault _ (by simp))
  · split
    · exact .next (.enter off imm _ rfl ‹_› ‹_›)
    · exact .refused (.badTarget _ rfl ‹_›)

/-! ## The operands of the platform -/

theorem State.mapAddr_isSome (s : State) (maps : List (Imm × Word)) (imm : Imm) :
    (s.cfg.mapsSupported && (maps.lookup imm).isSome) = (s.mapAddr maps imm).isSome := by
  unfold State.mapAddr
  cases s.cfg.mapsSupported <;> rfl

theorem State.mapValue_isSome (s : State) (maps : List (Imm × Word)) (imm : Imm) :
    (s.cfg.mapsSupported && ((maps.lookup imm).bind (s.cfg.mva.lookup ·)).isSome) = (s.mapValue maps imm).isSome := by
  unfold State.mapValue State.mapAddr
  cases s.cfg.mapsSupported <;> rfl

theorem State.varAddr_isSome (s : State) (imm : Imm) :
    (s.cfg.varsSupported && (s.cfg.variableAddr.lookup imm).isSome) = (s.varAddr imm).isSome := by
  unfold State.varAddr
  cases s.cfg.varsSupported <;> rfl

/-! ## Reading registers first -/

/-- What instruction `i` answers if it begins by reading the registers `rs` in order: the fault of the first undefined
one, else what `Answers` lists (R406, R414). -/
def AnswersAfter (s : State) (i : Instr) (rs : List Reg) (r : Result) : Prop :=
  (∀ u, s.firstUndefined rs = some u → r = .next (s.faultedWith (.uninitRegister u))) ∧
  (s.firstUndefined rs = none → Answers s i r)

variable {rs : List Reg}

theorem AnswersAfter.answers {r : Result} (after : AnswersAfter s i rs r) : Answers s i r := by
  obtain ⟨undefined, defined⟩ := after
  cases first : s.firstUndefined rs with
  | none => exact defined first
  | some u =>
    rw [undefined u first]
    exact .next (.fault _ (by simp))

theorem AnswersAfter.nothing {r : Result} (rest : Answers s i r) : AnswersAfter s i [] r :=
  ⟨nofun, fun _ => rest⟩

theorem AnswersAfter.withReg {r : Reg} {k : Word → Result} (rest : AnswersAfter s i rs (k (s.reg r).val)) :
    AnswersAfter s i (r :: rs) (s.withReg r k) := by
  unfold AnswersAfter
  cases mark : (s.reg r).defd with
  | true =>
    rw [State.firstUndefined_cons_defd mark, State.withReg_of_defd mark]
    exact rest
  | false =>
    rw [State.firstUndefined_cons_undef mark, State.withReg_undef mark]
    exact ⟨fun u same => by cases same; rfl, nofun⟩

theorem AnswersAfter.withRegs {k : List Word → Result} (rest : ∀ vs, Answers s i (k vs)) :
    AnswersAfter s i rs (s.withRegs rs k) :=
  ⟨fun _ undef => State.withRegs_undef undef k, fun defd => State.withRegs_defd defd k ▸ rest _⟩

/-! ## The shapes of the instructions -/

theorem AnswersAfter.exit : AnswersAfter s .exit (Instr.reads s .exit) s.ret := by
  unfold State.ret
  split
  · rename_i outermost
    rw [Instr.reads, if_pos outermost]
    exact .withReg (.nothing (.next (.finished _ rfl outermost)))
  · rename_i r rest top
    rw [Instr.reads, if_neg (by simp [top])]
    exact .nothing (.next (.leave r rest rfl top))

theorem AnswersAfter.helper {space : HelperSpace} {table : List (Imm × Helper)} {id : Imm}
    (known : i.helperKnown s.cfg = (table.lookup id).isSome) (isCall : i = .callHelper id ∨ i = .callPlatform id) :
    AnswersAfter s i ((table.lookup id).elim [] fun h => argRegs h.arity) (s.helper space table id) := by
  unfold State.helper
  cases listed : table.lookup id with
  | none => exact .nothing (.refused (.unknownHelper (by rw [known, listed]; rfl)))
  | some h =>
    refine .withRegs fun args => ?_
    split
    · exact .next (.fault _ (by simp))
    · exact .next (.helped _ _ id isCall)

section

variable {b src : Reg} {d : WReg} {off : Off} {imm : Imm} (oneSlot : i.slots = 1)
include oneSlot

theorem AnswersAfter.jump64Imm (cond : Word → Word → Bool)
    (names : Instr.disp? s.cfg.localCallField i = some off.toInt) :
    AnswersAfter s i [b] (jump64Imm cond b imm off s) :=
  .withReg (.nothing (.branch oneSlot names))

theorem AnswersAfter.jump64Reg (cond : Word → Word → Bool)
    (names : Instr.disp? s.cfg.localCallField i = some off.toInt) :
    AnswersAfter s i [b, src] (jump64Reg cond b src off s) :=
  .withReg (.withReg (.nothing (.branch oneSlot names)))

theorem AnswersAfter.jump32Imm (cond : BitVec 32 → BitVec 32 → Bool)
    (names : Instr.disp? s.cfg.localCallField i = some off.toInt) :
    AnswersAfter s i [b] (jump32Imm cond b imm off s) :=
  .withReg (.nothing (.branch oneSlot names))

theorem AnswersAfter.jump32Reg (cond : BitVec 32 → BitVec 32 → Bool)
    (names : Instr.disp? s.cfg.localCallField i = some off.toInt) :
    AnswersAfter s i [b, src] (jump32Reg cond b src off s) :=
  .withReg (.withReg (.nothing (.branch oneSlot names)))

theorem AnswersAfter.storeImm {n : Nat} (stores : Instr.storesTo i = some (b, off, n)) :
    AnswersAfter s i [b] (storeImm n b off imm s) :=
  .withReg (.nothing (.memWrite oneSlot stores))

theorem AnswersAfter.storeReg {n : Nat} (stores : Instr.storesTo i = some (b, off, n)) :
    AnswersAfter s i [b, src] (storeReg n b off src s) :=
  .withReg (.withReg (.nothing (.memWrite oneSlot stores)))

theorem AnswersAfter.atomicOp {n : Nat} {op : Word → Word → Word} (stores : Instr.storesTo i = some (b, off, n)) :
    AnswersAfter s i [b, src] (atomicOp n op b off src s) :=
  .withReg <| .withReg <| .nothing <| .atomicRMW fun lr _ draws v found =>
    .next (.store b off n v .rmw lr draws oneSlot stores found)

theorem AnswersAfter.atomicFetch {n : Nat} {op : Word → Word → Word} (stores : Instr.storesTo i = some (b, off, n))
    (listed : d.toReg ∈ Instr.writes i) : AnswersAfter s i [b, d.toReg] (atomicFetch n op b off d s) :=
  .withReg <| .withReg <| .nothing <| .atomicRMW fun lr old draws v found =>
    .next (.exchange b off n v lr draws d old oneSlot stores listed found)

theorem AnswersAfter.atomicCmpxchg {n : Nat} {cut : Word → Word} (stores : Instr.storesTo i = some (b, off, n))
    (listed : WReg.toReg 0 ∈ Instr.writes i) : AnswersAfter s i [b, src, 0] (atomicCmpxchg n cut b off src s) :=
  .withReg <| .withReg <| .withReg <| .nothing <| .atomicRMW fun lr old draws v found =>
    .next (.exchange b off n v lr draws 0 old oneSlot stores listed found)

variable (listed : d.toReg ∈ Instr.writes i)
include listed

theorem AnswersAfter.alu64Imm (f : Word → Word → Word) : AnswersAfter s i [d.toReg] (alu64Imm f d imm s) :=
  .withReg (.nothing (.finish _ s.draws oneSlot listed))

theorem AnswersAfter.alu64Reg (f : Word → Word → Word) : AnswersAfter s i [d.toReg, src] (alu64Reg f d src s) :=
  .withReg (.withReg (.nothing (.finish _ s.draws oneSlot listed)))

theorem AnswersAfter.alu32Imm (f : BitVec 32 → BitVec 32 → BitVec 32) :
    AnswersAfter s i [d.toReg] (alu32Imm f d imm s) :=
  .withReg (.nothing (.finish _ s.draws oneSlot listed))

theorem AnswersAfter.alu32Reg (f : BitVec 32 → BitVec 32 → BitVec 32) :
    AnswersAfter s i [d.toReg, src] (alu32Reg f d src s) :=
  .withReg (.withReg (.nothing (.finish _ s.draws oneSlot listed)))

theorem AnswersAfter.shift64Imm (f : Word → Nat → Word) : AnswersAfter s i [d.toReg] (shift64Imm f d imm s) :=
  .withReg (.nothing (.withShift fun _ => .finish _ s.draws oneSlot listed))

theorem AnswersAfter.shift64Reg (f : Word → Nat → Word) : AnswersAfter s i [d.toReg, src] (shift64Reg f d src s) :=
  .withReg (.withReg (.nothing (.withShift fun _ => .finish _ s.draws oneSlot listed)))

theorem AnswersAfter.shift32Imm (f : BitVec 32 → Nat → BitVec 32) :
    AnswersAfter s i [d.toReg] (shift32Imm f d imm s) :=
  .withReg (.nothing (.withShift fun _ => .finish _ s.draws oneSlot listed))

theorem AnswersAfter.shift32Reg (f : BitVec 32 → Nat → BitVec 32) :
    AnswersAfter s i [d.toReg, src] (shift32Reg f d src s) :=
  .withReg (.withReg (.nothing (.withShift fun _ => .finish _ s.draws oneSlot listed)))

theorem AnswersAfter.load (n : Nat) : AnswersAfter s i [src] (load n d src off s) :=
  .withReg (.nothing (.memRead fun _ draws => .finish _ draws oneSlot listed))

/-- An instruction that reads one register and writes what a function makes of it. -/
theorem AnswersAfter.compute (f : Word → Word) : AnswersAfter s i [src] (s.withReg src fun v => s.finish d (f v)) :=
  .withReg (.nothing (.finish _ s.draws oneSlot listed))

end

/-! ## Every instruction -/

/-- Every instruction reads its registers in the order of `Instr.reads`, and answers in one of the ways of `Answers`. -/
theorem exec_answersAfter (i : Instr) (s : State) : AnswersAfter s i (Instr.reads s i) (exec i s) := by
  cases i with
  | mov64Imm | mov32Imm => exact .nothing (.finish _ s.draws rfl (.head _))
  | add64Imm | sub64Imm | mul64Imm | div64Imm | or64Imm | and64Imm | mod64Imm | xor64Imm =>
    exact .alu64Imm rfl (.head _) _
  | add64Reg | sub64Reg | mul64Reg | div64Reg | or64Reg | and64Reg | mod64Reg | xor64Reg =>
    exact .alu64Reg rfl (.head _) _
  | add32Imm | sub32Imm | mul32Imm | div32Imm | or32Imm | and32Imm | mod32Imm | xor32Imm =>
    exact .alu32Imm rfl (.head _) _
  | add32Reg | sub32Reg | mul32Reg | div32Reg | or32Reg | and32Reg | mod32Reg | xor32Reg =>
    exact .alu32Reg rfl (.head _) _
  | lsh64Imm | rsh64Imm | arsh64Imm => exact .shift64Imm rfl (.head _) _
  | lsh64Reg | rsh64Reg | arsh64Reg => exact .shift64Reg rfl (.head _) _
  | lsh32Imm | rsh32Imm | arsh32Imm => exact .shift32Imm rfl (.head _) _
  | lsh32Reg | rsh32Reg | arsh32Reg => exact .shift32Reg rfl (.head _) _
  | mov64Reg => exact .compute rfl (.head _) fun b => b
  | mov32Reg => exact .compute rfl (.head _) fun b => zext64 (low32 b)
  | neg64 => exact .compute rfl (.head _) fun a => 0 - a
  | neg32 => exact .compute rfl (.head _) fun a => zext64 (0 - low32 a)
  | le16 => exact .compute rfl (.head _) fun a => (toOrder s.cfg.endian .little bswap16 (a.extractLsb' 0 16)).zeroExtend 64
  | le32 => exact .compute rfl (.head _) fun a => (toOrder s.cfg.endian .little bswap32 (a.extractLsb' 0 32)).zeroExtend 64
  | be16 => exact .compute rfl (.head _) fun a => (toOrder s.cfg.endian .big bswap16 (a.extractLsb' 0 16)).zeroExtend 64
  | be32 => exact .compute rfl (.head _) fun a => (toOrder s.cfg.endian .big bswap32 (a.extractLsb' 0 32)).zeroExtend 64
  | le64 | be64 => exact .compute rfl (.head _) _
  | ja => exact .nothing (.jumpTo rfl)
  | jeqImm | jgtImm | jgeImm | jsetImm | jneImm | jsgtImm | jsgeImm | jltImm | jleImm | jsltImm | jsleImm =>
    exact .jump64Imm rfl _ rfl
  | jeqReg | jgtReg | jgeReg | jsetReg | jneReg | jsgtReg | jsgeReg | jltReg | jleReg | jsltReg | jsleReg =>
    exact .jump64Reg rfl _ rfl
  | jeq32Imm | jgt32Imm | jge32Imm | jset32Imm | jne32Imm | jsgt32Imm | jsge32Imm | jlt32Imm | jle32Imm | jslt32Imm
  | jsle32Imm =>
    exact .jump32Imm rfl _ rfl
  | jeq32Reg | jgt32Reg | jge32Reg | jset32Reg | jne32Reg | jsgt32Reg | jsge32Reg | jlt32Reg | jle32Reg | jslt32Reg
  | jsle32Reg =>
    exact .jump32Reg rfl _ rfl
  | callHelper id => exact .helper rfl (.inl rfl)
  | callPlatform id => exact .helper rfl (.inr rfl)
  | callLocal off imm => exact .nothing (.callLocal off imm)
  | exit => exact .exit
  | ldxw | ldxh | ldxb | ldxdw => exact .load rfl (.head _) _
  | stw | sth | stb | stdw => exact .storeImm rfl rfl
  | stxw | stxh | stxb | stxdw => exact .storeReg rfl rfl
  | atomicAdd32 | atomicOr32 | atomicAnd32 | atomicXor32 | atomicAdd64 | atomicOr64 | atomicAnd64 | atomicXor64 =>
    exact .atomicOp rfl rfl
  | atomicFetchAdd32 | atomicFetchOr32 | atomicFetchAnd32 | atomicFetchXor32 | atomicXchg32
  | atomicFetchAdd64 | atomicFetchOr64 | atomicFetchAnd64 | atomicFetchXor64 | atomicXchg64 =>
    exact .atomicFetch rfl rfl (.head _)
  | atomicCmpxchg32 | atomicCmpxchg64 => exact .atomicCmpxchg rfl rfl (.head _)
  | lddw => exact .nothing (.finishWide _ rfl (.head _))
  | ldMapFd | ldMapIdx => exact .nothing (.withOperand (s.mapAddr_isSome _ _) fun _ => .finishWide _ rfl (.head _))
  | ldMapFdValue | ldMapIdxValue =>
    exact .nothing (.withOperand (s.mapValue_isSome _ _) fun _ => .finishWide _ rfl (.head _))
  | ldVarAddr => exact .nothing (.withOperand (s.varAddr_isSome _) fun _ => .finishWide _ rfl (.head _))
  | ldCodeAddr => exact .nothing (.withTarget rfl fun _ => .finishWide _ rfl (.head _))
  | ldabsw | ldabsh | ldabsb | ldabsdw | ldindw | ldindh | ldindb | ldinddw => exact .nothing (.refused (.legacy rfl))

theorem exec_answers (i : Instr) (s : State) : Answers s i (exec i s) := (exec_answersAfter i s).answers

/-- Everything an instruction that answers a next state has done. -/
theorem exec_next {t : State} (ran : exec i s = .next t) : Effect s i t := by
  have answers := ran ▸ exec_answers i s
  cases answers with
  | next effect => exact effect

/-- Everything an instruction that is refused can be refused for. -/
theorem exec_refused {r : Refusal} (ran : exec i s = .refused r) : Refuses s i r := by
  have answers := ran ▸ exec_answers i s
  cases answers with
  | refused why => exact why

/-- Settles O32: every instruction reads its registers first, in the order of the table (`exec_answersAfter`). -/
theorem uninitRegisterFault : Obligations.UninitRegisterFault :=
  fun s i r undef => (exec_answersAfter i s).1 r undef

end

end Sys2Proof.Machine

/-! PROOFS of the family other: decoding and encoding are inverse to each other (spec/30_encoding.md R81, R82, R96,
R99 to R102, R106, R108). -/

namespace Sys2Proof

/-! ## Bytes and fields -/

theorem byteOf_bswap64 (v : Word) {k : Nat} (hk : k < 8) : byteOf (bswap64 v) k = byteOf v (7 - k) := by
  change BitVec.extractLsb' (n := 8 + 8 + 8 + 8 + 8 + 8 + 8 + 8) _ _ (_ ++ _) = _
  obtain rfl | rfl | rfl | rfl | rfl | rfl | rfl | rfl : k = 0 ∨ k = 1 ∨ k = 2 ∨ k = 3 ∨ k = 4 ∨ k = 5 ∨ k = 6 ∨ k = 7 := by
    omega
  all_goals
    simp (disch := decide) only [BitVec.extractLsb'_append_eq_of_add_le, BitVec.extractLsb'_append_eq_of_le]
    exact BitVec.extractLsb'_eq_self

/-- A value is its eight bytes. -/
theorem eq_of_byteOf_eq {v w : Word} (same : ∀ k < 8, byteOf v k = byteOf w k) : v = w := by
  refine BitVec.eq_of_getLsbD_eq fun i hi => ?_
  have bit := congrArg (·.getLsbD (i % 8)) (same (i / 8) (by omega))
  have place : 8 * (i / 8) + i % 8 = i := Nat.div_add_mod i 8
  have inByte : i % 8 < 8 := Nat.mod_lt _ (by decide)
  simpa [byteOf, place, inByte] using bit

theorem bswap64_bswap64 (v : Word) : bswap64 (bswap64 v) = v :=
  eq_of_byteOf_eq fun k hk => by
    rw [byteOf_bswap64 _ hk, byteOf_bswap64 _ (by omega)]
    congr 1
    omega

theorem extract_little (imm : BitVec 32) (off : BitVec 16) (src dst : BitVec 4) (opcode : BitVec 8) :
    (imm ++ off ++ src ++ dst ++ opcode).extractLsb' 0 8 = opcode ∧
    (imm ++ off ++ src ++ dst ++ opcode).extractLsb' 8 4 = dst ∧
    (imm ++ off ++ src ++ dst ++ opcode).extractLsb' 12 4 = src ∧
    (imm ++ off ++ src ++ dst ++ opcode).extractLsb' 16 16 = off ∧
    (imm ++ off ++ src ++ dst ++ opcode).extractLsb' 32 32 = imm := by
  simp (disch := decide) only [BitVec.extractLsb'_append_eq_of_add_le, BitVec.extractLsb'_append_eq_of_le]
  refine ⟨?_, ?_, ?_, ?_, ?_⟩ <;> exact BitVec.extractLsb'_eq_self

theorem extract_big (opcode : BitVec 8) (dst src : BitVec 4) (off : BitVec 16) (imm : BitVec 32) :
    (opcode ++ dst ++ src ++ off ++ imm).extractLsb' 56 8 = opcode ∧
    (opcode ++ dst ++ src ++ off ++ imm).extractLsb' 52 4 = dst ∧
    (opcode ++ dst ++ src ++ off ++ imm).extractLsb' 48 4 = src ∧
    (opcode ++ dst ++ src ++ off ++ imm).extractLsb' 32 16 = off ∧
    (opcode ++ dst ++ src ++ off ++ imm).extractLsb' 0 32 = imm := by
  simp (disch := decide) only [BitVec.extractLsb'_append_eq_of_add_le, BitVec.extractLsb'_append_eq_of_le]
  refine ⟨?_, ?_, ?_, ?_, ?_⟩ <;> exact BitVec.extractLsb'_eq_self

/-- The fields of a slot made of fields are those fields (R81, R82). -/
theorem split_join (e : Endian) (f : Fields) : split e (join e f) = f := by
  obtain ⟨opcode, dst, src, off, imm⟩ := f
  cases e with
  | little =>
    simp only [split, join, Fields.mk.injEq]
    exact extract_little imm off src dst opcode
  | big =>
    simp only [split, join, bswap64_bswap64, Fields.mk.injEq]
    exact extract_big opcode dst src off imm

theorem concat_little (w : BitVec 64) :
    w.extractLsb' 32 32 ++ w.extractLsb' 16 16 ++ w.extractLsb' 12 4 ++ w.extractLsb' 8 4 ++ w.extractLsb' 0 8 = w := by
  simp (disch := decide) only [BitVec.extractLsb'_append_extractLsb'_eq_extractLsb']
  exact BitVec.extractLsb'_eq_self

theorem concat_big (w : BitVec 64) :
    w.extractLsb' 56 8 ++ w.extractLsb' 52 4 ++ w.extractLsb' 48 4 ++ w.extractLsb' 32 16 ++ w.extractLsb' 0 32 = w := by
  simp (disch := decide) only [BitVec.extractLsb'_append_extractLsb'_eq_extractLsb']
  exact BitVec.extractLsb'_eq_self

/-- A slot is made of its fields (R81, R82). -/
theorem join_split (e : Endian) (w : Slot) : join e (split e w) = w := by
  cases e with
  | little => exact concat_little w
  | big =>
    rw [split, join, concat_big]
    exact bswap64_bswap64 w

/-! ## Decoding what was encoded -/

section
open Laws

/-- The fields of every instruction are read back as it. -/
theorem decodeFields_fields : ∀ i, FieldsRoundTrip.Statement i
  | .add64Imm dst imm => FieldsRoundTrip.add64Imm dst imm
  | .add64Reg dst src => FieldsRoundTrip.add64Reg dst src
  | .sub64Imm dst imm => FieldsRoundTrip.sub64Imm dst imm
  | .sub64Reg dst src => FieldsRoundTrip.sub64Reg dst src
  | .mul64Imm dst imm => FieldsRoundTrip.mul64Imm dst imm
  | .mul64Reg dst src => FieldsRoundTrip.mul64Reg dst src
  | .div64Imm dst imm => FieldsRoundTrip.div64Imm dst imm
  | .div64Reg dst src => FieldsRoundTrip.div64Reg dst src
  | .or64Imm dst imm => FieldsRoundTrip.or64Imm dst imm
  | .or64Reg dst src => FieldsRoundTrip.or64Reg dst src
  | .and64Imm dst imm => FieldsRoundTrip.and64Imm dst imm
  | .and64Reg dst src => FieldsRoundTrip.and64Reg dst src
  | .lsh64Imm dst imm => FieldsRoundTrip.lsh64Imm dst imm
  | .lsh64Reg dst src => FieldsRoundTrip.lsh64Reg dst src
  | .rsh64Imm dst imm => FieldsRoundTrip.rsh64Imm dst imm
  | .rsh64Reg dst src => FieldsRoundTrip.rsh64Reg dst src
  | .neg64 dst => FieldsRoundTrip.neg64 dst
  | .mod64Imm dst imm => FieldsRoundTrip.mod64Imm dst imm
  | .mod64Reg dst src => FieldsRoundTrip.mod64Reg dst src
  | .xor64Imm dst imm => FieldsRoundTrip.xor64Imm dst imm
  | .xor64Reg dst src => FieldsRoundTrip.xor64Reg dst src
  | .mov64Imm dst imm => FieldsRoundTrip.mov64Imm dst imm
  | .mov64Reg dst src => FieldsRoundTrip.mov64Reg dst src
  | .arsh64Imm dst imm => FieldsRoundTrip.arsh64Imm dst imm
  | .arsh64Reg dst src => FieldsRoundTrip.arsh64Reg dst src
  | .add32Imm dst imm => FieldsRoundTrip.add32Imm dst imm
  | .add32Reg dst src => FieldsRoundTrip.add32Reg dst src
  | .sub32Imm dst imm => FieldsRoundTrip.sub32Imm dst imm
  | .sub32Reg dst src => FieldsRoundTrip.sub32Reg dst src
  | .mul32Imm dst imm => FieldsRoundTrip.mul32Imm dst imm
  | .mul32Reg dst src => FieldsRoundTrip.mul32Reg dst src
  | .div32Imm dst imm => FieldsRoundTrip.div32Imm dst imm
  | .div32Reg dst src => FieldsRoundTrip.div32Reg dst src
  | .or32Imm dst imm => FieldsRoundTrip.or32Imm dst imm
  | .or32Reg dst src => FieldsRoundTrip.or32Reg dst src
  | .and32Imm dst imm => FieldsRoundTrip.and32Imm dst imm
  | .and32Reg dst src => FieldsRoundTrip.and32Reg dst src
  | .lsh32Imm dst imm => FieldsRoundTrip.lsh32Imm dst imm
  | .lsh32Reg dst src => FieldsRoundTrip.lsh32Reg dst src
  | .rsh32Imm dst imm => FieldsRoundTrip.rsh32Imm dst imm
  | .rsh32Reg dst src => FieldsRoundTrip.rsh32Reg dst src
  | .neg32 dst => FieldsRoundTrip.neg32 dst
  | .mod32Imm dst imm => FieldsRoundTrip.mod32Imm dst imm
  | .mod32Reg dst src => FieldsRoundTrip.mod32Reg dst src
  | .xor32Imm dst imm => FieldsRoundTrip.xor32Imm dst imm
  | .xor32Reg dst src => FieldsRoundTrip.xor32Reg dst src
  | .mov32Imm dst imm => FieldsRoundTrip.mov32Imm dst imm
  | .mov32Reg dst src => FieldsRoundTrip.mov32Reg dst src
  | .arsh32Imm dst imm => FieldsRoundTrip.arsh32Imm dst imm
  | .arsh32Reg dst src => FieldsRoundTrip.arsh32Reg dst src
  | .le16 dst => FieldsRoundTrip.le16 dst
  | .le32 dst => FieldsRoundTrip.le32 dst
  | .le64 dst => FieldsRoundTrip.le64 dst
  | .be16 dst => FieldsRoundTrip.be16 dst
  | .be32 dst => FieldsRoundTrip.be32 dst
  | .be64 dst => FieldsRoundTrip.be64 dst
  | .ja off => FieldsRoundTrip.ja off
  | .jeqImm dst imm off => FieldsRoundTrip.jeqImm dst imm off
  | .jeqReg dst src off => FieldsRoundTrip.jeqReg dst src off
  | .jgtImm dst imm off => FieldsRoundTrip.jgtImm dst imm off
  | .jgtReg dst src off => FieldsRoundTrip.jgtReg dst src off
  | .jgeImm dst imm off => FieldsRoundTrip.jgeImm dst imm off
  | .jgeReg dst src off => FieldsRoundTrip.jgeReg dst src off
  | .jsetImm dst imm off => FieldsRoundTrip.jsetImm dst imm off
  | .jsetReg dst src off => FieldsRoundTrip.jsetReg dst src off
  | .jneImm dst imm off => FieldsRoundTrip.jneImm dst imm off
  | .jneReg dst src off => FieldsRoundTrip.jneReg dst src off
  | .jsgtImm dst imm off => FieldsRoundTrip.jsgtImm dst imm off
  | .jsgtReg dst src off => FieldsRoundTrip.jsgtReg dst src off
  | .jsgeImm dst imm off => FieldsRoundTrip.jsgeImm dst imm off
  | .jsgeReg dst src off => FieldsRoundTrip.jsgeReg dst src off
  | .jltImm dst imm off => FieldsRoundTrip.jltImm dst imm off
  | .jltReg dst src off => FieldsRoundTrip.jltReg dst src off
  | .jleImm dst imm off => FieldsRoundTrip.jleImm dst imm off
  | .jleReg dst src off => FieldsRoundTrip.jleReg dst src off
  | .jsltImm dst imm off => FieldsRoundTrip.jsltImm dst imm off
  | .jsltReg dst src off => FieldsRoundTrip.jsltReg dst src off
  | .jsleImm dst imm off => FieldsRoundTrip.jsleImm dst imm off
  | .jsleReg dst src off => FieldsRoundTrip.jsleReg dst src off
  | .jeq32Imm dst imm off => FieldsRoundTrip.jeq32Imm dst imm off
  | .jeq32Reg dst src off => FieldsRoundTrip.jeq32Reg dst src off
  | .jgt32Imm dst imm off => FieldsRoundTrip.jgt32Imm dst imm off
  | .jgt32Reg dst src off => FieldsRoundTrip.jgt32Reg dst src off
  | .jge32Imm dst imm off => FieldsRoundTrip.jge32Imm dst imm off
  | .jge32Reg dst src off => FieldsRoundTrip.jge32Reg dst src off
  | .jset32Imm dst imm off => FieldsRoundTrip.jset32Imm dst imm off
  | .jset32Reg dst src off => FieldsRoundTrip.jset32Reg dst src off
  | .jne32Imm dst imm off => FieldsRoundTrip.jne32Imm dst imm off
  | .jne32Reg dst src off => FieldsRoundTrip.jne32Reg dst src off
  | .jsgt32Imm dst imm off => FieldsRoundTrip.jsgt32Imm dst imm off
  | .jsgt32Reg dst src off => FieldsRoundTrip.jsgt32Reg dst src off
  | .jsge32Imm dst imm off => FieldsRoundTrip.jsge32Imm dst imm off
  | .jsge32Reg dst src off => FieldsRoundTrip.jsge32Reg dst src off
  | .jlt32Imm dst imm off => FieldsRoundTrip.jlt32Imm dst imm off
  | .jlt32Reg dst src off => FieldsRoundTrip.jlt32Reg dst src off
  | .jle32Imm dst imm off => FieldsRoundTrip.jle32Imm dst imm off
  | .jle32Reg dst src off => FieldsRoundTrip.jle32Reg dst src off
  | .jslt32Imm dst imm off => FieldsRoundTrip.jslt32Imm dst imm off
  | .jslt32Reg dst src off => FieldsRoundTrip.jslt32Reg dst src off
  | .jsle32Imm dst imm off => FieldsRoundTrip.jsle32Imm dst imm off
  | .jsle32Reg dst src off => FieldsRoundTrip.jsle32Reg dst src off
  | .callHelper id => FieldsRoundTrip.callHelper id
  | .callLocal off imm => FieldsRoundTrip.callLocal off imm
  | .callPlatform id => FieldsRoundTrip.callPlatform id
  | .exit => FieldsRoundTrip.exit
  | .ldxw dst src off => FieldsRoundTrip.ldxw dst src off
  | .ldxh dst src off => FieldsRoundTrip.ldxh dst src off
  | .ldxb dst src off => FieldsRoundTrip.ldxb dst src off
  | .ldxdw dst src off => FieldsRoundTrip.ldxdw dst src off
  | .stw dst off imm => FieldsRoundTrip.stw dst off imm
  | .sth dst off imm => FieldsRoundTrip.sth dst off imm
  | .stb dst off imm => FieldsRoundTrip.stb dst off imm
  | .stdw dst off imm => FieldsRoundTrip.stdw dst off imm
  | .stxw dst off src => FieldsRoundTrip.stxw dst off src
  | .stxh dst off src => FieldsRoundTrip.stxh dst off src
  | .stxb dst off src => FieldsRoundTrip.stxb dst off src
  | .stxdw dst off src => FieldsRoundTrip.stxdw dst off src
  | .atomicAdd32 dst off src => FieldsRoundTrip.atomicAdd32 dst off src
  | .atomicFetchAdd32 dst off src => FieldsRoundTrip.atomicFetchAdd32 dst off src
  | .atomicOr32 dst off src => FieldsRoundTrip.atomicOr32 dst off src
  | .atomicFetchOr32 dst off src => FieldsRoundTrip.atomicFetchOr32 dst off src
  | .atomicAnd32 dst off src => FieldsRoundTrip.atomicAnd32 dst off src
  | .atomicFetchAnd32 dst off src => FieldsRoundTrip.atomicFetchAnd32 dst off src
  | .atomicXor32 dst off src => FieldsRoundTrip.atomicXor32 dst off src
  | .atomicFetchXor32 dst off src => FieldsRoundTrip.atomicFetchXor32 dst off src
  | .atomicXchg32 dst off src => FieldsRoundTrip.atomicXchg32 dst off src
  | .atomicCmpxchg32 dst off src => FieldsRoundTrip.atomicCmpxchg32 dst off src
  | .atomicAdd64 dst off src => FieldsRoundTrip.atomicAdd64 dst off src
  | .atomicFetchAdd64 dst off src => FieldsRoundTrip.atomicFetchAdd64 dst off src
  | .atomicOr64 dst off src => FieldsRoundTrip.atomicOr64 dst off src
  | .atomicFetchOr64 dst off src => FieldsRoundTrip.atomicFetchOr64 dst off src
  | .atomicAnd64 dst off src => FieldsRoundTrip.atomicAnd64 dst off src
  | .atomicFetchAnd64 dst off src => FieldsRoundTrip.atomicFetchAnd64 dst off src
  | .atomicXor64 dst off src => FieldsRoundTrip.atomicXor64 dst off src
  | .atomicFetchXor64 dst off src => FieldsRoundTrip.atomicFetchXor64 dst off src
  | .atomicXchg64 dst off src => FieldsRoundTrip.atomicXchg64 dst off src
  | .atomicCmpxchg64 dst off src => FieldsRoundTrip.atomicCmpxchg64 dst off src
  | .lddw dst imm nextImm => FieldsRoundTrip.lddw dst imm nextImm
  | .ldMapFd dst imm => FieldsRoundTrip.ldMapFd dst imm
  | .ldMapFdValue dst imm nextImm => FieldsRoundTrip.ldMapFdValue dst imm nextImm
  | .ldVarAddr dst imm => FieldsRoundTrip.ldVarAddr dst imm
  | .ldCodeAddr dst imm => FieldsRoundTrip.ldCodeAddr dst imm
  | .ldMapIdx dst imm => FieldsRoundTrip.ldMapIdx dst imm
  | .ldMapIdxValue dst imm nextImm => FieldsRoundTrip.ldMapIdxValue dst imm nextImm
  | .ldabsw dst src off imm => FieldsRoundTrip.ldabsw dst src off imm
  | .ldabsh dst src off imm => FieldsRoundTrip.ldabsh dst src off imm
  | .ldabsb dst src off imm => FieldsRoundTrip.ldabsb dst src off imm
  | .ldabsdw dst src off imm => FieldsRoundTrip.ldabsdw dst src off imm
  | .ldindw dst src off imm => FieldsRoundTrip.ldindw dst src off imm
  | .ldindh dst src off imm => FieldsRoundTrip.ldindh dst src off imm
  | .ldindb dst src off imm => FieldsRoundTrip.ldindb dst src off imm
  | .ldinddw dst src off imm => FieldsRoundTrip.ldinddw dst src off imm

end

theorem decode_cons (e : Endian) (lcf : LocalCallField) (w : Slot) (rest : List Slot) :
    decode e lcf (w :: rest) = decodeFields lcf (split e w) (rest.head?.map (split e)) := rfl

/-- Settles O48: the slots of an encoding hold the instruction's fields (`split_join`), which are read back as it. -/
theorem decodeEncode : Obligations.DecodeEncode := by
  intro e lcf i rest unusedZero
  unfold encode
  split
  · rename_i oneSlot
    rw [List.singleton_append, decode_cons, split_join]
    exact decodeFields_fields i lcf _ unusedZero (by simp [oneSlot])
  · rename_i g twoSlots
    rw [List.cons_append, decode_cons, List.singleton_append, List.head?_cons, Option.map_some, split_join, split_join]
    exact decodeFields_fields i lcf _ unusedZero (by simp [twoSlots])

/-! ## Encoding what was decoded -/

/-- An instruction of one slot whose fields are `f`, none of them unused by choice of a parameter. -/
structure Instr.OneSlot (i : Instr) (f : Fields) : Prop where
  fields : i.fields = f
  nextFields : i.nextFields = none
  slots : i.slots = 1
  unusedFieldsZero : ∀ lcf, i.unusedFieldsZero lcf = true

/-- The instructions of a form have its opcode byte and the fields the form names, every other field 0 (R99, R102). -/
def Form.Faithful (op : BitVec 8) : Form → Prop
  | .dstImm mk => ∀ d imm, Instr.OneSlot (mk d imm) ⟨op, regBits d, 0, 0, imm⟩
  | .dstSrc mk => ∀ d src, Instr.OneSlot (mk d src) ⟨op, regBits d, regBits src, 0, 0⟩
  | .dstOnly mk => ∀ d, Instr.OneSlot (mk d) ⟨op, regBits d, 0, 0, 0⟩
  | .swap rows => ∀ row ∈ rows, ∀ d, Instr.OneSlot (row.2 d) ⟨op, regBits d, 0, 0, row.1⟩
  | .offOnly mk => ∀ off, Instr.OneSlot (mk off) ⟨op, 0, 0, off, 0⟩
  | .cmpImm mk => ∀ d imm off, Instr.OneSlot (mk d imm off) ⟨op, regBits d, 0, off, imm⟩
  | .cmpReg mk => ∀ d src off, Instr.OneSlot (mk d src off) ⟨op, regBits d, regBits src, off, 0⟩
  | .call => op = 0x85#8
  | .bare i => Instr.OneSlot i ⟨op, 0, 0, 0, 0⟩
  | .load mk => ∀ d src off, Instr.OneSlot (mk d src off) ⟨op, regBits d, regBits src, off, 0⟩
  | .storeImm mk => ∀ d off imm, Instr.OneSlot (mk d off imm) ⟨op, regBits d, 0, off, imm⟩
  | .storeReg mk => ∀ d off src, Instr.OneSlot (mk d off src) ⟨op, regBits d, regBits src, off, 0⟩
  | .atomic rows => ∀ row ∈ rows,
    match row.2 with
    | .reading mk => ∀ d off src, Instr.OneSlot (mk d off src) ⟨op, regBits d, regBits src, off, row.1⟩
    | .fetching mk => ∀ d off src, Instr.OneSlot (mk d off src) ⟨op, regBits d, regBits src, off, row.1⟩
  | .wide => op = 0x18#8
  | .any mk => ∀ dst src off imm, Instr.OneSlot (mk dst src off imm) ⟨op, dst, src, off, imm⟩

theorem alu64Rows_faithful : ∀ row ∈ alu64Rows, row.2.Faithful row.1 := by
  simp only [alu64Rows, List.forall_mem_cons, List.not_mem_nil, false_implies, implies_true, Form.Faithful, and_true]
  and_intros
  all_goals intros; exact ⟨rfl, rfl, rfl, fun _ => rfl⟩

theorem alu32Rows_faithful : ∀ row ∈ alu32Rows, row.2.Faithful row.1 := by
  simp only [alu32Rows, leRows, beRows, List.forall_mem_cons, List.not_mem_nil, false_implies, implies_true, Form.Faithful, and_true]
  and_intros
  all_goals intros; exact ⟨rfl, rfl, rfl, fun _ => rfl⟩

theorem jumpRows_faithful : ∀ row ∈ jumpRows, row.2.Faithful row.1 := by
  simp only [jumpRows, List.forall_mem_cons, List.not_mem_nil, false_implies, implies_true, Form.Faithful, and_true]
  and_intros
  all_goals intros; exact ⟨rfl, rfl, rfl, fun _ => rfl⟩

theorem memoryRows_faithful : ∀ row ∈ memoryRows, row.2.Faithful row.1 := by
  simp only [memoryRows, atomic32Rows, atomic64Rows, List.forall_mem_cons, List.not_mem_nil, false_implies, implies_true, Form.Faithful, and_true]
  and_intros
  all_goals intros; exact ⟨rfl, rfl, rfl, fun _ => rfl⟩

/-- Every row of the opcode map is faithful to its opcode byte (R106). -/
theorem opcodeRows_faithful : ∀ row ∈ opcodeRows, row.2.Faithful row.1 := by
  simp only [opcodeRows, List.forall_mem_append]
  exact ⟨⟨⟨alu64Rows_faithful, alu32Rows_faithful⟩, jumpRows_faithful⟩, memoryRows_faithful⟩

/-! What a step of the decoder accepts. -/

theorem bind_ok {α β : Type} {x : Except DecodeError α} {k : α → Except DecodeError β} {b : β} :
    (x >>= k) = .ok b ↔ ∃ a, x = .ok a ∧ k a = .ok b := by
  cases x <;> simp [bind, Except.bind]

theorem pure_ok {α : Type} {a b : α} : (pure a : Except DecodeError α) = .ok b ↔ a = b := by
  simp [pure, Except.pure]

theorem unused_ok {n : Nat} {field : BitVec n} {u : Unit} : unused field = .ok u ↔ field = 0 := by
  simp [unused]

theorem regOf_ok {n : BitVec 4} {r : Reg} : regOf n = .ok r ↔ n = regBits r := by
  refine ⟨fun accepted => ?_, fun same => same ▸ Laws.regOf_regBits r⟩
  unfold regOf at accepted
  split at accepted <;> cases accepted
  simp [regBits]

theorem wregOf_ok {n : BitVec 4} {d : WReg} : wregOf n = .ok d ↔ n = regBits d := by
  refine ⟨fun accepted => ?_, fun same => same ▸ Laws.wregOf_regBits d⟩
  unfold wregOf at accepted
  split at accepted <;> cases accepted
  simp [regBits]

theorem mem_of_lookup_eq_some {α β : Type} [BEq α] [LawfulBEq α] {rows : List (α × β)} {key : α} {b : β}
    (found : rows.lookup key = some b) : (key, b) ∈ rows := by
  obtain ⟨before, after, rfl, -⟩ := List.lookup_eq_some_iff.mp found
  simp

theorem select_ok {α : Type} {rows : List (Imm × α)} {sel : Imm} {a : α} (accepted : select rows sel = .ok a) :
    (sel, a) ∈ rows := by
  unfold select at accepted
  split at accepted <;> cases accepted
  exact mem_of_lookup_eq_some ‹_›

/-- The fields, with those of the second slot where it has one, are the instruction's, the unused ones 0. -/
def Instr.Holds (i : Instr) (lcf : LocalCallField) (f : Fields) (next : Option Fields) : Prop :=
  i.fields = f ∧ i.unusedFieldsZero lcf = true ∧
  (i.nextFields = none ∧ i.slots = 1 ∨ ∃ g, next = some g ∧ i.nextFields = some g ∧ i.slots = 2)

theorem Instr.OneSlot.holds {i : Instr} {f : Fields} (one : i.OneSlot f) (lcf : LocalCallField)
    (next : Option Fields) : i.Holds lcf f next :=
  ⟨one.fields, one.unusedFieldsZero lcf, .inl ⟨one.nextFields, one.slots⟩⟩

/-- The call instructions: `src_reg` selects, and the field that is not used is 0 (spec/45_call_exit.md R276, R281). -/
theorem decodeCall_holds {lcf : LocalCallField} {f : Fields} {next : Option Fields} {i : Instr}
    (accepted : decodeCall lcf f = .ok i) (isCall : f.opcode = 0x85#8) : i.Holds lcf f next := by
  obtain ⟨op, dst, src, off, imm⟩ := f
  simp only [decodeCall, bind_ok, unused_ok] at accepted
  obtain ⟨-, rfl, accepted⟩ := accepted
  subst isCall
  split at accepted
  case isTrue helper =>
    simp only [bind_ok, unused_ok, pure_ok] at accepted
    obtain ⟨-, rfl, rfl⟩ := accepted
    exact ⟨by rw [helper]; rfl, rfl, .inl ⟨rfl, rfl⟩⟩
  split at accepted
  case isTrue localCall =>
    cases lcf with
    | offset | imm =>
      simp only [bind_ok, unused_ok, pure_ok] at accepted
      obtain ⟨-, rfl, rfl⟩ := accepted
      exact ⟨by rw [localCall]; rfl, rfl, .inl ⟨rfl, rfl⟩⟩
  split at accepted
  case isTrue platform =>
    simp only [bind_ok, unused_ok, pure_ok] at accepted
    obtain ⟨-, rfl, rfl⟩ := accepted
    exact ⟨by rw [platform]; rfl, rfl, .inl ⟨rfl, rfl⟩⟩
  cases accepted

/-- An instruction of two slots whose fields are `f` and `g`. -/
structure Instr.TwoSlots (i : Instr) (f g : Fields) : Prop where
  fields : i.fields = f
  nextFields : i.nextFields = some g
  slots : i.slots = 2
  unusedFieldsZero : ∀ lcf, i.unusedFieldsZero lcf = true

theorem wide_holds {lcf : LocalCallField} {mk : WReg → Instr} {op : BitVec 8} {dst src : BitVec 4} {off : Off}
    {imm : Imm} {g : Fields} {i : Instr} (each : ∀ d, (mk d).TwoSlots ⟨op, regBits d, src, off, imm⟩ g)
    (accepted : (do return mk (← wregOf dst)) = Except.ok i) : i.Holds lcf ⟨op, dst, src, off, imm⟩ (some g) := by
  simp only [bind_ok, pure_ok, wregOf_ok] at accepted
  obtain ⟨d, rfl, rfl⟩ := accepted
  obtain ⟨fields, nextFields, slots, zero⟩ := each d
  exact ⟨fields, zero lcf, .inr ⟨g, rfl, nextFields, slots⟩⟩

/-- As `wide_holds`, for an instruction that does not use `next_imm`. -/
theorem wideUnused_holds {lcf : LocalCallField} {mk : WReg → Instr} {op : BitVec 8} {dst src : BitVec 4} {off : Off}
    {imm nextImm : Imm} {i : Instr}
    (each : ∀ d, (mk d).TwoSlots ⟨op, regBits d, src, off, imm⟩ ⟨0, 0, 0, 0, 0⟩)
    (accepted : (do unused nextImm; return mk (← wregOf dst)) = Except.ok i) :
    i.Holds lcf ⟨op, dst, src, off, imm⟩ (some ⟨0, 0, 0, 0, nextImm⟩) := by
  obtain ⟨_, noNext, accepted⟩ := bind_ok.1 accepted
  obtain rfl : nextImm = 0 := unused_ok.1 noNext
  exact wide_holds each accepted

/-- The wide instructions: `src_reg` selects, and the second slot holds `next_imm` alone, or nothing (R87,
spec/48_imm64.md R355). -/
theorem decodeWide_holds {lcf : LocalCallField} {f : Fields} {next : Option Fields} {i : Instr}
    (accepted : decodeWide f next = .ok i) (isWide : f.opcode = 0x18#8) : i.Holds lcf f next := by
  obtain ⟨op, dst, src, off, imm⟩ := f
  simp only [decodeWide, bind_ok, unused_ok] at accepted
  obtain ⟨-, rfl, accepted⟩ := accepted
  obtain rfl : op = 0x18#8 := isWide
  obtain _ | ⟨op', dst', src', off', nextImm⟩ := next
  · cases accepted
  dsimp only at accepted
  split at accepted
  case isFalse => cases accepted
  rename_i zero
  obtain ⟨rfl, rfl, rfl, rfl⟩ := zero
  split at accepted
  case isTrue selected =>
    exact wide_holds (fun d => ⟨by rw [selected]; rfl, rfl, rfl, fun _ => rfl⟩) accepted
  split at accepted
  case isTrue selected =>
    exact wideUnused_holds (fun d => ⟨by rw [selected]; rfl, rfl, rfl, fun _ => rfl⟩) accepted
  split at accepted
  case isTrue selected =>
    exact wide_holds (fun d => ⟨by rw [selected]; rfl, rfl, rfl, fun _ => rfl⟩) accepted
  split at accepted
  case isTrue selected =>
    exact wideUnused_holds (fun d => ⟨by rw [selected]; rfl, rfl, rfl, fun _ => rfl⟩) accepted
  split at accepted
  case isTrue selected =>
    exact wideUnused_holds (fun d => ⟨by rw [selected]; rfl, rfl, rfl, fun _ => rfl⟩) accepted
  split at accepted
  case isTrue selected =>
    exact wideUnused_holds (fun d => ⟨by rw [selected]; rfl, rfl, rfl, fun _ => rfl⟩) accepted
  split at accepted
  case isTrue selected =>
    exact wide_holds (fun d => ⟨by rw [selected]; rfl, rfl, rfl, fun _ => rfl⟩) accepted
  cases accepted

/-- What a faithful form decodes holds the fields it was decoded from. -/
theorem decodeForm_holds {lcf : LocalCallField} {f : Fields} {next : Option Fields} {form : Form} {i : Instr}
    (faithful : form.Faithful f.opcode) (accepted : decodeForm lcf f next form = .ok i) : i.Holds lcf f next := by
  cases form
  case call => exact decodeCall_holds accepted faithful
  case wide => exact decodeWide_holds accepted faithful
  all_goals
    obtain ⟨op, dst, src, off, imm⟩ := f
    simp only [decodeForm, bind_ok, unused_ok, pure_ok, wregOf_ok, regOf_ok] at accepted
  case dstImm mk =>
    obtain ⟨-, rfl, -, rfl, d, rfl, rfl⟩ := accepted
    exact (faithful d imm).holds lcf next
  case dstSrc mk =>
    obtain ⟨-, rfl, -, rfl, d, rfl, r, rfl, rfl⟩ := accepted
    exact (faithful d r).holds lcf next
  case dstOnly mk =>
    obtain ⟨-, rfl, -, rfl, -, rfl, d, rfl, rfl⟩ := accepted
    exact (faithful d).holds lcf next
  case swap rows =>
    obtain ⟨-, rfl, -, rfl, mk, row, d, rfl, rfl⟩ := accepted
    exact (faithful _ (select_ok row) d).holds lcf next
  case offOnly mk =>
    obtain ⟨-, rfl, -, rfl, -, rfl, rfl⟩ := accepted
    exact (faithful off).holds lcf next
  case cmpImm mk =>
    obtain ⟨-, rfl, r, rfl, rfl⟩ := accepted
    exact (faithful r imm off).holds lcf next
  case cmpReg mk =>
    obtain ⟨-, rfl, r, rfl, q, rfl, rfl⟩ := accepted
    exact (faithful r q off).holds lcf next
  case bare =>
    obtain ⟨-, rfl, -, rfl, -, rfl, -, rfl, rfl⟩ := accepted
    exact Instr.OneSlot.holds faithful lcf next
  case load mk =>
    obtain ⟨-, rfl, d, rfl, r, rfl, rfl⟩ := accepted
    exact (faithful d r off).holds lcf next
  case storeImm mk =>
    obtain ⟨-, rfl, r, rfl, rfl⟩ := accepted
    exact (faithful r off imm).holds lcf next
  case storeReg mk =>
    obtain ⟨-, rfl, r, rfl, q, rfl, rfl⟩ := accepted
    exact (faithful r off q).holds lcf next
  case atomic rows =>
    obtain ⟨operation, row, accepted⟩ := accepted
    have faithful := faithful _ (select_ok row)
    cases operation with
    | reading mk | fetching mk =>
      simp only [bind_ok, pure_ok, wregOf_ok, regOf_ok] at accepted
      obtain ⟨r, rfl, q, rfl, rfl⟩ := accepted
      exact (faithful r off q).holds lcf next
  case any mk =>
    cases accepted
    exact (faithful dst src off imm).holds lcf next

theorem decodeFields_holds {lcf : LocalCallField} {f : Fields} {next : Option Fields} {i : Instr}
    (accepted : decodeFields lcf f next = .ok i) : i.Holds lcf f next := by
  unfold decodeFields at accepted
  split at accepted
  · exact decodeForm_holds (opcodeRows_faithful _ (mem_of_lookup_eq_some ‹_›)) accepted
  · cases accepted

/-- Settles O49: every row of the opcode map is faithful to its opcode byte, so the fields read are those of the
instruction (`decodeFields_holds`), and the slots are made of them (`join_split`). -/
theorem encodeDecode : Obligations.EncodeDecode := by
  intro e lcf ws i accepted
  cases ws with
  | nil => cases accepted
  | cons w rest =>
    obtain ⟨fields, zero, ⟨noNext, slots⟩ | ⟨g, second, nextFields, slots⟩⟩ := decodeFields_holds accepted
    · simp [encode, noNext, fields, join_split, slots, zero]
    · obtain ⟨w', head, rfl⟩ := Option.map_eq_some_iff.1 second
      obtain ⟨rest, rfl⟩ := List.head?_eq_some_iff.1 head
      simp [encode, nextFields, fields, join_split, slots, zero]

end Sys2Proof

/-! PROOFS of the family other: what every step keeps (spec/10_state.md R22, R31 to R33, spec/20_memory.md R57, R65,
spec/70_reset_and_hazards.md R454). -/

namespace Sys2Proof.Machine

section

variable {s t : State} {i : Instr}

/-! ## What an instruction leaves alone -/

theorem State.wrote_reg_other (s : State) {d : WReg} {r : Reg} (v : Word) (slots : Nat) (other : r ≠ d.toReg) :
    (s.wrote d v slots).reg r = s.reg r := s.setReg_reg_other d v r other

theorem State.wrote_reg_ten (s : State) (d : WReg) (v : Word) (slots : Nat) :
    (s.wrote d v slots).reg 10 = s.reg 10 := s.setReg_reg_ten d v

theorem exec_keeps_parameters (ran : exec i s = .next t) : t.prog = s.prog ∧ t.cfg = s.cfg ∧ t.env = s.env := by
  cases exec_next ran with
  | enter | leave | helped => simp
  | fault | write | pass | jump | store | exchange | finished => exact ⟨rfl, rfl, rfl⟩

theorem exec_reg_unlisted (ran : exec i s = .next t) {r : Reg} (unlisted : r ∉ Instr.writes i) : t.reg r = s.reg r := by
  cases exec_next ran with
  | write d v draws listed => exact State.wrote_reg_other _ v _ fun same => unlisted (same ▸ listed)
  | exchange b off n v lr draws d old oneSlot stores listed found =>
    exact State.wrote_reg_other _ old _ fun same => unlisted (same ▸ listed)
  | enter off imm n isCall =>
    subst isCall
    have kept : ∀ r : Reg, r ∉ ([0, 6, 7, 8, 9, 10] : List Reg) → r ≠ 10 ∧ ¬ isFresh r = true := by decide
    obtain ⟨notTen, notFresh⟩ := kept r unlisted
    rw [State.enter_reg, if_neg notTen, if_neg notFresh]
  | leave r' rest isExit =>
    subst isExit
    have kept : ∀ r : Reg, r ∉ ([1, 2, 3, 4, 5, 6, 7, 8, 9, 10] : List Reg) → r = 0 := by decide
    obtain rfl := kept r unlisted
    rw [State.leave_reg]
    rfl
  | helped v cells id isCall =>
    have kept : ∀ r : Reg, r ∉ ([0, 1, 2, 3, 4, 5] : List Reg) → r ≠ 0 ∧ ¬ isArg r = true := by decide
    obtain ⟨notZero, notArg⟩ := kept r (by obtain rfl | rfl := isCall <;> exact unlisted)
    rw [State.afterHelper_reg, if_neg notZero, if_neg notArg]
  | fault | pass | jump | store | finished => rfl

/-- Only a BPF-local call and exit change the call stack and R10 (R22, R33). -/
theorem exec_keeps_frames (ran : exec i s = .next t) (notCall : ∀ off imm, i ≠ .callLocal off imm) (notExit : i ≠ .exit) :
    t.frames = s.frames ∧ t.reg 10 = s.reg 10 := by
  cases exec_next ran with
  | write d v => exact ⟨rfl, State.wrote_reg_ten _ d v _⟩
  | exchange b off n v lr draws d old => exact ⟨rfl, State.wrote_reg_ten _ d old _⟩
  | enter off imm n isCall => exact absurd isCall (notCall off imm)
  | leave r rest isExit => exact absurd isExit notExit
  | helped v cells => exact ⟨rfl, by rw [State.afterHelper_reg]; rfl⟩
  | fault | pass | jump | store | finished => exact ⟨rfl, rfl⟩

/-- Settles O38: the three frame lemmas above, each read off the list of answers. -/
theorem registerFrame : Obligations.RegisterFrame := by
  intro s t i ran
  obtain ⟨prog, cfg, env⟩ := exec_keeps_parameters ran
  exact ⟨fun r unlisted => exec_reg_unlisted ran unlisted, prog, cfg, env, exec_keeps_frames ran⟩

/-- Bytes read the same where memory, regions and frames are the same. -/
theorem State.byteAt_congr (mem : t.mem = s.mem) (cfg : t.cfg = s.cfg) (frames : t.frames = s.frames) (x : Nat) :
    t.byteAt x = s.byteAt x := by
  simp only [State.byteAt, State.byteIn, State.live, mem, cfg, frames]

/-- An instruction that is no store, atomic operation, call or return changes no byte (R69). -/
theorem exec_keeps_mem (ran : exec i s = .next t) (noStore : Instr.storesTo i = none)
    (noCall : Instr.isCallOrExit i = false ∨ i = .exit ∧ s.frames = []) : t.mem = s.mem ∧ t.frames = s.frames := by
  cases exec_next ran with
  | store b off n v need lr draws oneSlot stores => cases noStore.symm.trans stores
  | exchange b off n v lr draws d old oneSlot stores => cases noStore.symm.trans stores
  | enter off imm n isCall =>
    subst isCall
    obtain no | ⟨no, -⟩ := noCall <;> cases no
  | leave r rest isExit top =>
    subst isExit
    obtain no | ⟨-, no⟩ := noCall
    · cases no
    · cases top.symm.trans no
  | helped v cells id isCall =>
    obtain rfl | rfl := isCall <;> obtain no | ⟨no, -⟩ := noCall <;> cases no
  | fault | write | pass | jump | finished => exact ⟨rfl, rfl⟩

/-- A store or atomic operation changes no byte outside those it stores (R69). -/
theorem exec_keeps_bytes (ran : exec i s = .next t) {b : Reg} {off : Off} {n : Nat}
    (stores : Instr.storesTo i = some (b, off, n)) {x : Nat}
    (outside : x < (effAddr (s.reg b).val off).toNat ∨ (effAddr (s.reg b).val off).toNat + n ≤ x) :
    t.byteAt x = s.byteAt x := by
  cases exec_next ran with
  | store b' off' n' v need lr draws oneSlot stores' =>
    cases stores.symm.trans stores'
    exact State.store_byteAt s _ n v x outside
  | exchange b' off' n' v lr draws d old oneSlot stores' =>
    cases stores.symm.trans stores'
    exact State.store_byteAt s _ n v x outside
  | enter off imm n isCall => subst isCall; cases stores
  | leave r rest isExit => subst isExit; cases stores
  | helped v cells id isCall => obtain rfl | rfl := isCall <;> cases stores
  | fault | write | pass | jump | finished => rfl

/-- Settles O39: the two frames of memory above. -/
theorem memoryFrame : Obligations.MemoryFrame := by
  intro s t i ran
  have cfg := (exec_keeps_parameters ran).2.1
  refine ⟨fun b off n base stores holds x outside => ?_, fun noStore noCall => ?_, fun isExit outermost => ?_⟩
  · exact exec_keeps_bytes ran stores (by rwa [holds])
  · obtain ⟨mem, frames⟩ := exec_keeps_mem ran noStore (.inl noCall)
    exact ⟨mem, State.byteAt_congr mem cfg frames⟩
  · obtain ⟨mem, frames⟩ := exec_keeps_mem ran (by rw [isExit]; rfl) (.inr ⟨isExit, outermost⟩)
    exact ⟨mem, State.byteAt_congr mem cfg frames⟩

/-! ## What a step keeps -/

/-- Text and parameters are those before, and the other agents go on with what they were going to do next. -/
theorem step_keeps_parameters (stepped : step s = .next t) :
    t.prog = s.prog ∧ t.cfg = s.cfg ∧ t.env = s.env.next := by
  obtain ⟨-, ⟨i, -, ran⟩ | ⟨k, -, rfl⟩⟩ := step_next stepped
  · exact exec_keeps_parameters ran
  · exact ⟨rfl, rfl, rfl⟩

/-- Settles O40: by induction on the run, each step keeping both. -/
theorem textNeverChanges : Obligations.TextNeverChanges := by
  intro s t reaches
  induction reaches with
  | here => exact ⟨rfl, rfl⟩
  | next _ stepped ih =>
    obtain ⟨prog, cfg, -⟩ := step_keeps_parameters stepped
    exact ⟨prog.trans ih.1, cfg.trans ih.2⟩

theorem reaches_free {n : Nat} (reaches : Reaches s t) (free : s.env = .free n) : ∃ k, t.env = .free (n + k) := by
  induction reaches with
  | here => exact ⟨0, free⟩
  | next _ stepped ih =>
    obtain ⟨k, env⟩ := ih
    obtain ⟨-, -, next⟩ := step_keeps_parameters stepped
    exact ⟨k + 1, by rw [next, env, OtherAgents.next, Nat.add_assoc]⟩

/-- Settles O55: a step leaves the other agents what they were going to do next, so free agents stay free. -/
theorem otherAgentsNeverEnd : Obligations.OtherAgentsNeverEnd := by
  intro s t
  refine ⟨fun stepped => (step_keeps_parameters stepped).2.2, fun n free => ⟨fun stepped => ?_, fun reaches => ?_⟩⟩
  · rw [(step_keeps_parameters stepped).2.2, free]
    rfl
  · exact reaches_free reaches free

/-- An invariant that other agents' writes, every instruction and the faults of a fetch keep is kept by every step. -/
theorem step_keeps {Inv : State → Prop} (env : ∀ {s}, Inv s → Inv s.takeEnv)
    (instr : ∀ {s t i}, Inv s → exec i s = .next t → Inv t) (fault : ∀ {s} k, Inv s → Inv (s.faultedWith k))
    (inv : Inv s) (stepped : step s = .next t) : Inv t := by
  obtain ⟨-, ⟨i, -, ran⟩ | ⟨k, -, rfl⟩⟩ := step_next stepped
  · exact instr (env inv) ran
  · exact fault k (env inv)

theorem exec_keeps_wf (wf : s.mem.wf) (ran : exec i s = .next t) : t.mem.wf := by
  cases exec_next ran with
  | store b off n v need lr draws oneSlot stores found => exact State.store_wf wf found v
  | exchange b off n v lr draws d old oneSlot stores listed found => exact State.store_wf wf found v
  | enter | leave => exact Memory.wf_forget wf _ _
  | helped v cells => exact State.afterHelper_wf wf v cells
  | fault | write | pass | jump | finished => exact wf

/-- Settles O41: a store writes inside a region, other agents and helpers at addresses of 64 bits, and calls and returns
take bytes away. -/
theorem memoryFormKept : Obligations.MemoryFormKept :=
  fun _ _ => step_keeps (Inv := fun s => s.mem.wf) State.takeEnv_wf exec_keeps_wf fun _ wf => wf

theorem State.framePointerOk_enter (ok : s.framePointerOk) (room : s.frames.length ≠ Config.maxCallDepth s.cfg) (n : Nat) :
    (s.enter n).framePointerOk := by
  obtain ⟨ten, records, depth⟩ := ok
  rw [State.framePointerOk, State.enter_reg, State.enter_frames, State.enter_cfg]
  exact ⟨rfl, ⟨ten, records⟩, Nat.lt_of_le_of_ne depth room⟩

theorem State.framePointerOk_leave (ok : s.framePointerOk) {r : CallRecord} {rest : List CallRecord}
    (top : s.frames = r :: rest) : (s.leave r rest).framePointerOk := by
  obtain ⟨-, records, depth⟩ := ok
  rw [top] at records depth
  obtain ⟨saved, records⟩ := records
  rw [State.framePointerOk, State.leave_reg, State.leave_frames, State.leave_cfg]
  exact ⟨saved, records, Nat.le_of_succ_le depth⟩

theorem exec_keeps_framePointerOk (ok : s.framePointerOk) (ran : exec i s = .next t) : t.framePointerOk := by
  obtain ⟨ten, records, depth⟩ := ok
  cases exec_next ran with
  | enter off imm n isCall room => exact State.framePointerOk_enter ⟨ten, records, depth⟩ room n
  | leave r rest isExit top => exact State.framePointerOk_leave ⟨ten, records, depth⟩ top
  | write d v => exact ⟨(State.wrote_reg_ten _ d v _).trans ten, records, depth⟩
  | exchange b off n v lr draws d old => exact ⟨(State.wrote_reg_ten _ d old _).trans ten, records, depth⟩
  | helped v cells =>
    rw [State.framePointerOk, State.afterHelper_reg, State.afterHelper_frames, State.afterHelper_cfg]
    exact ⟨ten, records, depth⟩
  | fault | pass | jump | store | finished => exact ⟨ten, records, depth⟩

/-- Settles O42: a call pushes the frame pointer of its depth, which the return puts back; nothing else moves R10. -/
theorem framePointerKept : Obligations.FramePointerKept :=
  fun _ _ => step_keeps (Inv := State.framePointerOk) (fun ok => ok) exec_keeps_framePointerOk fun _ ok => ok

end

end Sys2Proof.Machine

/-! PROOFS of the family other: checked programs (spec/30_encoding.md R100, R107, R109, spec/60_exceptions.md R401, R405,
R409, R412, spec/70_reset_and_hazards.md R441, R445). -/

namespace Sys2Proof.Machine

section

variable {e : Endian} {lcf : LocalCallField} {i : Instr}

/-! ## Decoding in a longer text -/

theorem slots_of_decode {ws : List Slot} (accepted : decode e lcf ws = .ok i) : 0 < i.slots ∧ i.slots ≤ ws.length := by
  cases ws with
  | nil => cases accepted
  | cons w rest =>
    obtain ⟨-, -, ⟨-, slots⟩ | ⟨g, second, -, slots⟩⟩ := decodeFields_holds accepted
    · simp [slots]
    · obtain ⟨w', head, -⟩ := Option.map_eq_some_iff.1 second
      obtain ⟨rest, rfl⟩ := List.head?_eq_some_iff.1 head
      simp [slots]

/-- What follows an instruction does not change how it decodes. -/
theorem decode_append {ws : List Slot} (accepted : decode e lcf ws = .ok i) (more : List Slot) :
    decode e lcf (ws ++ more) = .ok i := by
  obtain ⟨slots, -, zero⟩ := encodeDecode e lcf ws i accepted
  have again := decodeEncode e lcf i (ws.drop i.slots ++ more) zero
  rwa [slots, ← List.append_assoc, List.take_append_drop] at again

/-! ## The instruction starts of a text -/

/-- The instruction starts of a text that is not empty: its first instruction, and those of what follows it. -/
theorem instrsFrom_cons {fuel at_ : Nat} {w : Slot} {rest : List Slot} {starts : List (Nat × Instr)}
    (decodes : instrsFrom e lcf fuel at_ (w :: rest) = .ok starts) :
    ∃ fuel' i later, decode e lcf (w :: rest) = .ok i ∧
      instrsFrom e lcf fuel' (at_ + i.slots) ((w :: rest).drop i.slots) = .ok later ∧ starts = (at_, i) :: later := by
  cases fuel with
  | zero => cases decodes
  | succ fuel =>
    unfold instrsFrom at decodes
    split at decodes
    · cases decodes
    · rename_i i first
      split at decodes
      · cases decodes
      · rename_i later rest
        cases decodes
        exact ⟨fuel, i, later, first, rest, rfl⟩

/-- Each start of a text is one where its instruction decodes, and the instruction ends at a start or at the end; the text
begins with a start, if it is not empty (R109 (2)). -/
theorem instrsFrom_starts {fuel at_ : Nat} {ws : List Slot} {starts : List (Nat × Instr)}
    (decodes : instrsFrom e lcf fuel at_ ws = .ok starts) :
    (ws = [] ∨ ∃ i, (at_, i) ∈ starts) ∧
    ∀ p i, (p, i) ∈ starts → ∃ k, p = at_ + k ∧ decode e lcf (ws.drop k) = .ok i ∧
      (p + i.slots = at_ + ws.length ∨ ∃ j, (p + i.slots, j) ∈ starts) := by
  induction starts generalizing fuel at_ ws with
  | nil =>
    cases ws with
    | nil => exact ⟨.inl rfl, nofun⟩
    | cons w rest =>
      obtain ⟨_, _, _, -, -, none⟩ := instrsFrom_cons decodes
      cases none
  | cons start starts ih =>
    cases ws with
    | nil => cases fuel <;> cases decodes
    | cons w rest =>
      obtain ⟨fuel', i, later, first, following, same⟩ := instrsFrom_cons decodes
      cases same
      obtain ⟨follows, later⟩ := ih following
      obtain ⟨-, within⟩ := slots_of_decode first
      have length : at_ + i.slots + ((w :: rest).drop i.slots).length = at_ + (w :: rest).length := by
        rw [List.length_drop]
        omega
      refine ⟨.inr ⟨i, List.mem_cons_self⟩, fun p j mem => ?_⟩
      obtain same | mem := List.mem_cons.1 mem
      · cases same
        refine ⟨0, rfl, first, follows.imp (fun none => ?_) fun ⟨j, mem⟩ => ⟨j, List.mem_cons_of_mem _ mem⟩⟩
        rw [← length, none]
        rfl
      · obtain ⟨k, rfl, decodes, ends⟩ := later p j mem
        refine ⟨i.slots + k, Nat.add_assoc _ _ _, by rwa [List.drop_drop] at decodes, ?_⟩
        exact ends.imp (fun stop => stop.trans length) fun ⟨j', mem⟩ => ⟨j', List.mem_cons_of_mem _ mem⟩

/-- The first slot that does not decode is reported, whatever follows it. -/
theorem instrsFrom_append_error {bad : List Slot} {err : DecodeError} (noInstr : decode e lcf bad = .error err)
    (some : bad ≠ []) {starts : List (Nat × Instr)} {fuel fuel' at_ : Nat} {pre : List Slot}
    (decodes : instrsFrom e lcf fuel at_ pre = .ok starts) (enough : pre.length < fuel') :
    instrsFrom e lcf fuel' at_ (pre ++ bad) = .error (at_ + pre.length) := by
  obtain ⟨w', bad', rfl⟩ := List.exists_cons_of_ne_nil some
  obtain ⟨fuel', rfl⟩ : ∃ n, fuel' = n + 1 := ⟨fuel' - 1, by omega⟩
  induction starts generalizing fuel fuel' at_ pre with
  | nil =>
    cases pre with
    | nil => simp [instrsFrom, noInstr]
    | cons w rest =>
      obtain ⟨_, _, _, -, -, none⟩ := instrsFrom_cons decodes
      cases none
  | cons start starts ih =>
    cases pre with
    | nil => cases fuel <;> cases decodes
    | cons w rest =>
      obtain ⟨fuel, i, later, first, following, same⟩ := instrsFrom_cons decodes
      cases same
      obtain ⟨positive, within⟩ := slots_of_decode first
      obtain ⟨fuel', rfl⟩ : ∃ n, fuel' = n + 1 := ⟨fuel' - 1, by simp at enough within; omega⟩
      have after := ih following fuel' (by simp at enough within ⊢; omega)
      rw [← List.drop_append_of_le_length within] at after
      have first := decode_append first (w' :: bad')
      rw [List.cons_append] at first after ⊢
      have length : at_ + i.slots + ((w :: rest).drop i.slots).length = at_ + (w :: rest).length := by
        rw [List.length_drop]
        omega
      rw [instrsFrom, first]
      simp only [after, length]

end

/-! ## Well-formed programs -/

theorem programProblem_of_error {cfg : Config} {prog : List Slot} {k : Nat}
    (stops : instrStarts cfg.endian cfg.localCallField prog = .error k) :
    programProblem cfg prog = some (.notAnInstruction k) := by
  cases prog with
  | nil => cases stops
  | cons w rest => simp only [programProblem, stops]

/-- A well-formed program has instruction starts, slot 0 among them, and none of its instructions has a problem. -/
theorem programProblem_none {cfg : Config} {prog : List Slot} (checked : programProblem cfg prog = none) :
    ∃ starts, instrStarts cfg.endian cfg.localCallField prog = .ok starts ∧ (∃ i, (0, i) ∈ starts) ∧
      ∀ p i, (p, i) ∈ starts → instrProblem cfg starts p i = none := by
  unfold programProblem at checked
  split at checked
  · cases checked
  · split at checked
    · cases checked
    · rename_i starts decodes
      refine ⟨starts, decodes, ?_, fun p i mem => List.findSome?_eq_none_iff.1 checked (p, i) mem⟩
      exact (instrsFrom_starts decodes).1.resolve_left (by simp)

/-- An instruction with no problem has none of the defects of R109 (3) to (8), nor a shift amount out of range. -/
theorem instrProblem_none {cfg : Config} {starts : List (Nat × Instr)} {pos : Nat} {i : Instr}
    (sound : instrProblem cfg starts pos i = none) :
    i.isLegacy = false ∧ i.helperKnown cfg = true ∧ i.operandSupported cfg = true ∧
      targetsStart cfg.localCallField starts pos i = true := by
  unfold instrProblem at sound
  split at sound
  case isTrue => cases sound
  rename_i notLegacy
  split at sound
  case isTrue => cases sound
  rename_i helper
  split at sound
  case isTrue => cases sound
  rename_i operand
  split at sound
  case isTrue => cases sound
  split at sound
  case isTrue => cases sound
  rename_i target
  exact ⟨Bool.eq_false_iff.2 notLegacy, by simpa using helper, by simpa using operand, by simpa using target⟩

/-- An instruction that targets a start names one, where it names a slot (R109 (3) to (5)). -/
theorem targetsStart_names {lcf : LocalCallField} {starts : List (Nat × Instr)} {pos : Nat} {i : Instr} {d : Int}
    (targets : targetsStart lcf starts pos i = true) (names : Instr.disp? lcf i = some d) :
    ∃ n j, target? pos d = some n ∧ (n, j) ∈ starts := by
  unfold targetsStart at targets
  rw [names] at targets
  dsimp only at targets
  split at targets
  · cases targets
  · rename_i n target
    obtain ⟨⟨n', j⟩, mem, same⟩ := List.any_eq_true.1 targets
    obtain rfl : n' = n := by simpa using same
    exact ⟨n', j, target, mem⟩

section

variable {s t : State} {i : Instr}

theorem State.fetch_ok (fetched : s.fetch = .ok i) :
    s.pc < s.prog.length ∧ decode s.cfg.endian s.cfg.localCallField (s.prog.drop s.pc) = .ok i := by
  unfold State.fetch at fetched
  split at fetched
  · cases fetched
  · split at fetched <;> cases fetched
    exact ⟨by omega, ‹_›⟩

theorem State.fetch_of_decode (inside : s.pc < s.prog.length)
    (decodes : decode s.cfg.endian s.cfg.localCallField (s.prog.drop s.pc) = .ok i) : s.fetch = .ok i := by
  rw [State.fetch, if_neg (by omega), decodes]

theorem State.fetch_pastEnd (past : s.prog.length ≤ s.pc) : s.fetch = .error (.pcOutOfRange s.pc) := if_pos past

theorem State.fetch_illegal (inside : s.pc < s.prog.length) {err : DecodeError}
    (noInstr : decode s.cfg.endian s.cfg.localCallField (s.prog.drop s.pc) = .error err) :
    s.fetch = .error (.illegalInstruction s.pc) := by
  rw [State.fetch, if_neg (by omega), noInstr]

/-- `i` is an instruction of the program at `pc`, and the program check finds nothing wrong with it. -/
def State.Checked (s : State) (i : Instr) : Prop :=
  ∃ starts, instrStarts s.cfg.endian s.cfg.localCallField s.prog = .ok starts ∧ (s.pc, i) ∈ starts ∧
    instrProblem s.cfg starts s.pc i = none

/-- In a checked program, at a position the run can be at, the fetch finds a checked instruction or the end. -/
theorem State.textOk.fetch (ok : s.textOk) :
    (∃ i, s.fetch = .ok i ∧ s.Checked i) ∨ s.fetch = .error (.pcOutOfRange s.pc) := by
  obtain ⟨checked, ⟨starts, decodes, atEnd | ⟨i, mem⟩⟩, -⟩ := ok
  · exact .inr (State.fetch_pastEnd (Nat.le_of_eq atEnd.symm))
  · obtain ⟨starts', decodes', -, sound⟩ := programProblem_none checked
    cases decodes.symm.trans decodes'
    obtain ⟨k, here, instr, -⟩ := (instrsFrom_starts decodes).2 s.pc i mem
    obtain rfl : s.pc = k := by omega
    have inside : s.pc < s.prog.length := by
      have := slots_of_decode instr
      rw [List.length_drop] at this
      omega
    exact .inl ⟨i, State.fetch_of_decode inside instr, starts, decodes, mem, sound _ _ mem⟩

theorem State.Checked.next (checked : s.Checked i) : s.startOrEnd (s.pc + i.slots) := by
  obtain ⟨starts, decodes, mem, -⟩ := checked
  obtain ⟨-, -, -, ends⟩ := (instrsFrom_starts decodes).2 s.pc i mem
  exact ⟨starts, decodes, ends.imp_left fun stop => by omega⟩

theorem State.Checked.names (checked : s.Checked i) {d : Int} (names : Instr.disp? s.cfg.localCallField i = some d) :
    ∃ n, target? s.pc d = some n ∧ s.startOrEnd n := by
  obtain ⟨starts, decodes, -, sound⟩ := checked
  obtain ⟨-, -, -, targets⟩ := instrProblem_none sound
  obtain ⟨n, j, target, mem⟩ := targetsStart_names targets names
  exact ⟨n, target, starts, decodes, .inr ⟨j, mem⟩⟩

/-- The only refusal of a checked instruction is a shift amount out of range (log 12). -/
theorem State.Checked.refused (checked : s.Checked i) {r : Refusal} (why : Refuses s i r) :
    s.cfg.shiftPolicy = .refuse ∧ r = .shiftRange s.pc := by
  have ⟨_, _, _, sound⟩ := checked
  obtain ⟨legacy, helper, operand, -⟩ := instrProblem_none sound
  cases why with
  | shiftRange refuses => exact ⟨refuses, rfl⟩
  | badTarget d names none =>
    obtain ⟨n, target, -⟩ := checked.names names
    cases none.symm.trans target
  | unsupported lacks => cases lacks.symm.trans operand
  | unknownHelper lacks => cases lacks.symm.trans helper
  | legacy isLegacy => cases isLegacy.symm.trans legacy

theorem State.textOk_of (ok : s.textOk) (prog : t.prog = s.prog) (cfg : t.cfg = s.cfg) (pc : s.startOrEnd t.pc)
    (frames : ∀ r ∈ t.frames, s.startOrEnd r.retPc) : t.textOk := by
  unfold State.textOk State.startOrEnd at *
  rw [prog, cfg]
  exact ⟨ok.1, pc, frames⟩

/-- A checked instruction leads to a position of the program again. -/
theorem State.Checked.textOk (checked : s.Checked i) (ok : s.textOk) (effect : Effect s i t) : t.textOk := by
  have ⟨_, here, returns⟩ := ok
  have next := checked.next
  cases effect with
  | fault | finished => exact ok
  | write => exact State.textOk_of ok rfl rfl next returns
  | pass oneSlot | store _ _ _ _ _ _ _ oneSlot | exchange _ _ _ _ _ _ _ _ oneSlot =>
    rw [oneSlot] at next
    exact State.textOk_of ok rfl rfl next returns
  | jump d n names target =>
    obtain ⟨n', target', start⟩ := checked.names names
    cases target.symm.trans target'
    exact State.textOk_of ok rfl rfl start returns
  | enter off imm n isCall room target =>
    subst isCall
    obtain ⟨n', target', start⟩ := checked.names rfl
    cases target.symm.trans target'
    refine State.textOk_of ok (s.enter_prog n) (s.enter_cfg n) start ?_
    rw [State.enter_frames]
    exact List.forall_mem_cons.2 ⟨next, returns⟩
  | leave r rest isExit top =>
    rw [top] at returns
    obtain ⟨back, returns⟩ := List.forall_mem_cons.1 returns
    exact State.textOk_of ok (s.leave_prog r rest) (s.leave_cfg r rest) back returns
  | helped v cells id isCall =>
    have oneSlot : i.slots = 1 := by obtain rfl | rfl := isCall <;> rfl
    rw [oneSlot] at next
    exact State.textOk_of ok (s.afterHelper_prog v cells) (s.afterHelper_cfg v cells) next returns

/-- No instruction raises the fault of a slot that is none. -/
theorem Effect.not_illegal (effect : Effect s i t) (running : s.status = .running) (k : Nat) :
    t.status ≠ .faulted (.illegalInstruction k) := by
  cases effect with
  | fault kind notOfFetch => exact fun same => notOfFetch k (RunStatus.faulted.inj same)
  | finished => exact nofun
  | enter | leave | helped => simp [running]
  | write | pass | jump | store | exchange => exact fun same => nomatch running.symm.trans same

/-- Settles O43: the fetch finds a checked instruction or the end (`State.textOk.fetch`), and the instruction leads to a
position of the program again (`State.Checked.textOk`). -/
theorem checkedProgramPc : Obligations.CheckedProgramPc := by
  intro s t ok stepped
  have ok : s.takeEnv.textOk := ok
  obtain ⟨running, ⟨i, fetched, ran⟩ | ⟨k, faulted, rfl⟩⟩ := step_next stepped
  · obtain ⟨i', fetched', checked⟩ | past := ok.fetch
    · cases fetched.symm.trans fetched'
      exact ⟨checked.textOk ok (exec_next ran), fun k _ => (exec_next ran).not_illegal running k⟩
    · cases fetched.symm.trans past
  · obtain ⟨i', fetched', -⟩ | past := ok.fetch
    · cases faulted.symm.trans fetched'
    · cases faulted.symm.trans past
      exact ⟨ok, fun _ _ => nofun⟩

theorem step_of_fetch_ok (running : s.status = .running) (fetched : s.takeEnv.fetch = .ok i) :
    step s = exec i s.takeEnv := by
  simp only [step, running, fetched]

theorem step_of_fetch_error (running : s.status = .running) {k : FaultKind} (faulted : s.takeEnv.fetch = .error k) :
    step s = .next (s.takeEnv.faultedWith k) := by
  simp only [step, running, faulted]
  rfl

theorem exec_cases (i : Instr) (s : State) :
    (∃ t, exec i s = .next t ∧ Effect s i t) ∨ ∃ r, exec i s = .refused r ∧ Refuses s i r := by
  have answers := exec_answers i s
  generalize exec i s = answer at answers ⊢
  cases answers with
  | next effect => exact .inl ⟨_, rfl, effect⟩
  | refused why => exact .inr ⟨_, rfl, why⟩

/-- What a step of a checked program answers. -/
theorem step_checked (ok : s.textOk) (running : s.status = .running) :
    (∃ t, step s = .next t ∧ t.textOk) ∨ step s = .refused (.shiftRange s.pc) ∧ s.cfg.shiftPolicy = .refuse := by
  have ok : s.takeEnv.textOk := ok
  obtain ⟨i, fetched, checked⟩ | past := ok.fetch
  · rw [step_of_fetch_ok running fetched]
    obtain ⟨t, ran, effect⟩ | ⟨r, ran, why⟩ := exec_cases i s.takeEnv
    · exact .inl ⟨t, ran, checked.textOk ok effect⟩
    · obtain ⟨refuses, rfl⟩ := checked.refused why
      exact .inr ⟨ran, refuses⟩
  · exact .inl ⟨_, step_of_fetch_error running past, ok⟩

/-- Settles O44: `step_checked`. -/
theorem checkedProgramNeverStuck : Obligations.CheckedProgramNeverStuck := by
  intro s ok running
  obtain next | ⟨refused, refuses⟩ := step_checked ok running
  · refine ⟨fun _ => next, fun r refused => ?_⟩
    obtain ⟨t, stepped, -⟩ := next
    cases stepped.symm.trans refused
  · refine ⟨fun mask => ?_, fun r refused' => ?_⟩
    · cases mask.symm.trans refuses
    · cases refused.symm.trans refused'
      exact ⟨refuses, rfl⟩

/-! ## Launch -/

/-- The registers at entry (R441). -/
theorem entryState_reg (cfg : Config) (prog : List Slot) (mem : Memory) (env : OtherAgents) (r : Reg) :
    (entryState cfg prog mem env).reg r =
      if r = 10 then ⟨Config.frameTop cfg 0, true⟩
      else if isArg r then (cfg.entryArgs[r.val - 1]?).elim .blank fun a => ⟨a, true⟩ else .blank := by
  have ten : r.val = 10 ↔ r = 10 := ⟨fun same => Fin.ext same, fun same => by rw [same]; rfl⟩
  simp only [State.reg, entryState, entryRegs, Fin.getElem_fin, Vector.getElem_ofFn, ten]
  cases cfg.entryArgs[r.val - 1]? <;> rfl

theorem entryState_framePointerOk (cfg : Config) (prog : List Slot) (mem : Memory) (env : OtherAgents) :
    (entryState cfg prog mem env).framePointerOk :=
  ⟨entryState_reg cfg prog mem env 10, trivial, Nat.zero_le _⟩

theorem entryState_wf (cfg : Config) (prog : List Slot) {mem : Memory} (env : OtherAgents) (wf : mem.wf) :
    (entryState cfg prog mem env).mem.wf :=
  Memory.wf_forget wf _ _

theorem entryState_textOk {cfg : Config} {prog : List Slot} (mem : Memory) (env : OtherAgents)
    (checked : programProblem cfg prog = none) : (entryState cfg prog mem env).textOk := by
  obtain ⟨starts, decodes, first, -⟩ := programProblem_none checked
  exact ⟨checked, ⟨starts, decodes, .inr first⟩, nofun⟩

/-- Settles O46: launch answers the entry state of a well-formed program, of which the three lemmas above hold. -/
theorem launchMeetsInvariants : Obligations.LaunchMeetsInvariants := by
  intro cfg prog mem env
  refine ⟨fun checked => ⟨entryState cfg prog mem env, ?_, rfl, ?_, ?_, ?_⟩, fun r problem => ?_⟩
  · rw [launch, checked]
  · exact entryState_framePointerOk cfg prog mem env
  · exact entryState_textOk mem env checked
  · exact entryState_wf cfg prog env
  · rw [launch, problem]

/-- Settles O45: the registers are `entryState_reg`, the bytes those of memory with the frame's taken away. -/
theorem entryState_table : Obligations.EntryState := by
  intro cfg prog mem env
  refine ⟨fun r mem => ?_, fun r arg => ?_, entryState_reg cfg prog mem env 10, rfl, rfl, rfl,
    Memory.get?_forget mem _ _⟩
  · have blank : ∀ r ∈ ([0, 6, 7, 8, 9] : List Reg), r ≠ 10 ∧ ¬ isArg r = true := by decide
    obtain ⟨notTen, notArg⟩ := blank r mem
    rw [entryState_reg, if_neg notTen, if_neg notArg]
    rfl
  · have isArg : ∀ r ∈ ([1, 2, 3, 4, 5] : List Reg), r ≠ 10 ∧ isArg r = true := by decide
    obtain ⟨notTen, isArg⟩ := isArg r arg
    rw [entryState_reg, if_neg notTen, if_pos isArg]
    exact ⟨fun a given => by rw [given]; rfl, fun none => by rw [none]; rfl⟩

theorem entryState_reset : State.reset = entryState Config.testVectors [] [] .silent := by
  unfold State.reset entryState
  congr

/-- Settles O47: the entry state of the test configuration, of which the invariants of entry states hold. -/
theorem resetState : Obligations.ResetState :=
  ⟨entryState_reset, by decide, ⟨by decide, trivial, by decide⟩, by decide⟩

/-! ## Fetching -/

/-- Settles O35: what decodes at `pc` is fetched (`State.fetch_of_decode`); silent agents change nothing. -/
theorem stepRunsDecoded : Obligations.StepRunsDecoded := by
  intro s i running inside decodes
  have stepped : step s = exec i s.takeEnv := step_of_fetch_ok running (State.fetch_of_decode (s := s.takeEnv) inside decodes)
  exact ⟨stepped, fun silent => by rw [stepped, s.takeEnv_silent silent]⟩

/-- Settles O36: the two faults of `State.fetch`. -/
theorem fetchFaults : Obligations.FetchFaults := by
  intro s running
  exact ⟨fun past => step_of_fetch_error running (State.fetch_pastEnd (s := s.takeEnv) past),
    fun inside err noInstr => step_of_fetch_error running (State.fetch_illegal (s := s.takeEnv) inside noInstr)⟩

end

end Sys2Proof.Machine

/-! PROOFS of the family other: the reserved opcodes (spec/30_encoding.md R100, R107) and the spec's own words
(spec/95_test_vectors.md). -/

namespace Sys2Proof.Machine

/-- A slot whose opcode byte no row of the opcode map has does not decode (R100). -/
theorem decode_noRow (e : Endian) (lcf : LocalCallField) {f : Fields} (rest : List Slot)
    (noRow : opcodeRows.lookup f.opcode = none) : decode e lcf (join e f :: rest) = .error .reservedOpcode := by
  rw [decode_cons, split_join, decodeFields, noRow]

/-- Settles O50: no row of the opcode map has one of these bytes, so the slot does not decode (`decode_noRow`), the program
check stops there (`instrsFrom_append_error`), and so does the fetch. -/
theorem reservedOpcodes : Obligations.ReservedOpcodes := by
  intro op listed e lcf x y off imm rest
  have noRow : (opcodeRows.lookup (BitVec.ofNat 8 op)).isNone = true := by
    revert op
    rw [List.forall_mem_cons]
    simp only [List.forall_mem_append]
    and_intros <;> decide
  have reserved : ∀ lcf, decode e lcf (join e ⟨BitVec.ofNat 8 op, x, y, off, imm⟩ :: rest) = .error .reservedOpcode :=
    fun lcf => decode_noRow e lcf rest (Option.isNone_iff_eq_none.1 noRow)
  refine ⟨reserved lcf, fun cfg pre starts order decodes => ?_, fun s running order inside here => ?_⟩
  · subst order
    refine programProblem_of_error ?_
    rw [← Nat.zero_add pre.length]
    exact instrsFrom_append_error (reserved _) (List.cons_ne_nil _ _) decodes (by simp)
  · refine (fetchFaults s running).2 inside .reservedOpcode ?_
    rw [here, order]
    exact reserved _

/-- Settles O51: each word is read by evaluation. -/
theorem specWordsDecode : Obligations.SpecWordsDecode := by
  unfold Obligations.SpecWordsDecode
  and_intros <;> rfl

end Sys2Proof.Machine

/-! PROOFS of the family other: arithmetic, shifts and byte swaps (spec/40_alu64.md, spec/41_alu32.md,
spec/42_byteswap.md). -/

namespace Sys2Proof.Machine

/-! ## Arithmetic and moves -/

/-- Settles O1: each operation is `alu64Imm`. -/
theorem alu64ImmResult : Obligations.Alu64ImmResult := by
  intro s d imm a hd
  exact ⟨alu64Imm_defd hd _ imm, alu64Imm_defd hd _ imm, alu64Imm_defd hd _ imm, alu64Imm_defd hd _ imm,
    alu64Imm_defd hd _ imm, alu64Imm_defd hd _ imm⟩

/-- Settles O2: each operation is `alu64Reg`. -/
theorem alu64RegResult : Obligations.Alu64RegResult := by
  intro s d src a b hd hs
  exact ⟨alu64Reg_defd hd hs _, alu64Reg_defd hd hs _, alu64Reg_defd hd hs _, alu64Reg_defd hd hs _,
    alu64Reg_defd hd hs _, alu64Reg_defd hd hs _⟩

/-- Settles O3: each operation is `alu32Imm`. -/
theorem alu32ImmResult : Obligations.Alu32ImmResult := by
  intro s d imm a hd
  exact ⟨alu32Imm_defd hd _ imm, alu32Imm_defd hd _ imm, alu32Imm_defd hd _ imm, alu32Imm_defd hd _ imm,
    alu32Imm_defd hd _ imm, alu32Imm_defd hd _ imm⟩

/-- Settles O4: each operation is `alu32Reg`. -/
theorem alu32RegResult : Obligations.Alu32RegResult := by
  intro s d src a b hd hs
  exact ⟨alu32Reg_defd hd hs _, alu32Reg_defd hd hs _, alu32Reg_defd hd hs _, alu32Reg_defd hd hs _,
    alu32Reg_defd hd hs _, alu32Reg_defd hd hs _⟩

/-- An instruction that reads one defined register and writes what a function makes of it. -/
theorem compute_defd {s : State} {src : Reg} {b : Word} (hs : s.reg src = ⟨b, true⟩) (d : WReg) (f : Word → Word) :
    (s.withReg src fun v => s.finish d (f v)) = .next (s.wrote d (f b) 1) := by
  rw [State.withReg_defd hs, State.finish_eq]

/-- Settles O5: a move writes its operand, a negation the difference from 0. -/
theorem moveNegateResult : Obligations.MoveNegateResult := by
  intro s d src imm a b
  refine ⟨s.finish_eq d _, s.finish_eq d _, fun hs => ⟨compute_defd hs d fun v => v, ?_⟩, fun hd => ⟨?_, ?_⟩⟩
  · rw [← low32_eq_setWidth]
    exact compute_defd hs d fun v => zext64 (low32 v)
  · rw [← BitVec.zero_sub]
    exact compute_defd hd d fun v => 0 - v
  · rw [← BitVec.zero_sub, ← low32_eq_setWidth]
    exact compute_defd hd d fun v => zext64 (0 - low32 v)

/-! ## Shifts -/

section

variable {s : State} {w : Nat} {b : BitVec w}

/-- An amount in range, or any with `SHIFT_POLICY = mask`, is taken modulo the width (R123, R163). -/
theorem State.withShift_masked (mask : s.cfg.shiftPolicy = .mask ∨ b.toNat < w) (k : Nat → Result) :
    s.withShift b k = k (b.toNat % w) := by
  unfold State.withShift shiftAmount?
  cases policy : s.cfg.shiftPolicy with
  | mask => rfl
  | refuse =>
    have inRange : b.toNat < w := mask.resolve_left (by simp [policy])
    simp only [if_pos inRange, Nat.mod_eq_of_lt inRange]

theorem State.withShift_refused (refuse : s.cfg.shiftPolicy = .refuse) (outOfRange : w ≤ b.toNat) (k : Nat → Result) :
    s.withShift b k = .refused (.shiftRange s.pc) := by
  simp only [State.withShift, shiftAmount?, refuse, if_neg (Nat.not_lt.2 outOfRange)]

variable {d : WReg} {a : Word} (hd : s.reg d.toReg = ⟨a, true⟩)
include hd

theorem shift64Imm_masked {imm : Imm} (mask : s.cfg.shiftPolicy = .mask ∨ (imm.signExtend 64).toNat < 64)
    (f : Word → Nat → Word) :
    shift64Imm f d imm s = .next (s.wrote d (f a ((imm.signExtend 64).toNat % 64)) 1) := by
  rw [shift64Imm, State.withReg_defd hd, sext64, State.withShift_masked mask, State.finish_eq]

theorem shift64Imm_refused {imm : Imm} (refuse : s.cfg.shiftPolicy = .refuse)
    (outOfRange : 64 ≤ (imm.signExtend 64).toNat) (f : Word → Nat → Word) (t : State) :
    shift64Imm f d imm s ≠ .next t := by
  rw [shift64Imm, State.withReg_defd hd, sext64, State.withShift_refused refuse outOfRange]
  exact nofun

theorem shift32Imm_masked {imm : Imm} (mask : s.cfg.shiftPolicy = .mask ∨ imm.toNat < 32)
    (f : BitVec 32 → Nat → BitVec 32) :
    shift32Imm f d imm s = .next (s.wrote d ((f (a.setWidth 32) (imm.toNat % 32)).setWidth 64) 1) := by
  rw [shift32Imm, State.withReg_defd hd, State.withShift_masked mask, State.finish_eq, low32_eq_setWidth, zext64]

theorem shift32Imm_refused {imm : Imm} (refuse : s.cfg.shiftPolicy = .refuse) (outOfRange : 32 ≤ imm.toNat)
    (f : BitVec 32 → Nat → BitVec 32) (t : State) : shift32Imm f d imm s ≠ .next t := by
  rw [shift32Imm, State.withReg_defd hd, State.withShift_refused refuse outOfRange]
  exact nofun

variable {src : Reg} {b : Word} (hs : s.reg src = ⟨b, true⟩)
include hs

theorem shift64Reg_masked (mask : s.cfg.shiftPolicy = .mask ∨ b.toNat < 64) (f : Word → Nat → Word) :
    shift64Reg f d src s = .next (s.wrote d (f a (b.toNat % 64)) 1) := by
  rw [shift64Reg, State.withReg_defd hd, State.withReg_defd hs, State.withShift_masked mask, State.finish_eq]

theorem shift64Reg_refused (refuse : s.cfg.shiftPolicy = .refuse) (outOfRange : 64 ≤ b.toNat) (f : Word → Nat → Word)
    (t : State) : shift64Reg f d src s ≠ .next t := by
  rw [shift64Reg, State.withReg_defd hd, State.withReg_defd hs, State.withShift_refused refuse outOfRange]
  exact nofun

theorem shift32Reg_masked (mask : s.cfg.shiftPolicy = .mask ∨ (b.setWidth 32).toNat < 32)
    (f : BitVec 32 → Nat → BitVec 32) :
    shift32Reg f d src s = .next (s.wrote d ((f (a.setWidth 32) ((b.setWidth 32).toNat % 32)).setWidth 64) 1) := by
  rw [shift32Reg, State.withReg_defd hd, State.withReg_defd hs, low32_eq_setWidth, low32_eq_setWidth,
    State.withShift_masked mask, State.finish_eq, zext64]

theorem shift32Reg_refused (refuse : s.cfg.shiftPolicy = .refuse) (outOfRange : 32 ≤ (b.setWidth 32).toNat)
    (f : BitVec 32 → Nat → BitVec 32) (t : State) : shift32Reg f d src s ≠ .next t := by
  rw [shift32Reg, State.withReg_defd hd, State.withReg_defd hs, low32_eq_setWidth, low32_eq_setWidth,
    State.withShift_refused refuse outOfRange]
  exact nofun

end

/-- A shift by an immediate out of range is not well formed with `SHIFT_POLICY = refuse` (R123, R163). -/
theorem wellFormed_shift_outOfRange {cfg : Config} {i : Instr} {width : Nat} {imm : Imm}
    (refuse : cfg.shiftPolicy = .refuse) (shift : i.shiftImm = some (width, imm)) (outOfRange : width ≤ imm.toNat) :
    i.wellFormed cfg = false := by
  simp [Instr.wellFormed, Instr.shiftInRange, refuse, shift, outOfRange]

theorem signExtend_toNat_le {imm : Imm} {n : Nat} (large : n ≤ (imm.signExtend 64).toNat) (small : n ≤ 2 ^ 31) :
    n ≤ imm.toNat := by
  rw [BitVec.toNat_signExtend] at large
  split at large
  · rename_i negative
    have := BitVec.msb_eq_decide imm
    simp_all
    omega
  · simp at large
    omega

/-- Settles O7: the amount is `shiftAmount?` of the second operand (`State.withShift_masked`, `State.withShift_refused`). -/
theorem shift64Amounts : Obligations.Shift64Amounts := by
  intro s d src imm a b hd
  refine ⟨fun mask => ⟨shift64Imm_masked hd mask _, shift64Imm_masked hd mask _, shift64Imm_masked hd mask _⟩,
    fun refuse outOfRange => ?_, fun hs => ⟨fun mask => ?_, fun refuse outOfRange => ?_⟩⟩
  · have large : 64 ≤ imm.toNat := signExtend_toNat_le outOfRange (by decide)
    exact ⟨wellFormed_shift_outOfRange refuse rfl large, wellFormed_shift_outOfRange refuse rfl large,
      wellFormed_shift_outOfRange refuse rfl large, shift64Imm_refused hd refuse outOfRange _,
      shift64Imm_refused hd refuse outOfRange _, shift64Imm_refused hd refuse outOfRange _⟩
  · exact ⟨shift64Reg_masked hd hs mask _, shift64Reg_masked hd hs mask _, shift64Reg_masked hd hs mask _⟩
  · exact ⟨shift64Reg_refused hd hs refuse outOfRange _, shift64Reg_refused hd hs refuse outOfRange _,
      shift64Reg_refused hd hs refuse outOfRange _⟩

/-- Settles O8: as O7, on the low halves. -/
theorem shift32Amounts : Obligations.Shift32Amounts := by
  intro s d src imm a b hd
  refine ⟨fun mask => ⟨shift32Imm_masked hd mask _, shift32Imm_masked hd mask _, shift32Imm_masked hd mask _⟩,
    fun refuse outOfRange => ?_, fun hs => ⟨fun mask => ?_, fun refuse outOfRange => ?_⟩⟩
  · exact ⟨wellFormed_shift_outOfRange refuse rfl outOfRange, wellFormed_shift_outOfRange refuse rfl outOfRange,
      wellFormed_shift_outOfRange refuse rfl outOfRange, shift32Imm_refused hd refuse outOfRange _,
      shift32Imm_refused hd refuse outOfRange _, shift32Imm_refused hd refuse outOfRange _⟩
  · exact ⟨shift32Reg_masked hd hs mask _, shift32Reg_masked hd hs mask _, shift32Reg_masked hd hs mask _⟩
  · exact ⟨shift32Reg_refused hd hs refuse outOfRange _, shift32Reg_refused hd hs refuse outOfRange _,
      shift32Reg_refused hd hs refuse outOfRange _⟩

end Sys2Proof.Machine

/-! PROOFS of the family other: byte swaps (spec/42_byteswap.md) and jumps (spec/43_jump64.md, spec/44_jump32.md). -/

namespace Sys2Proof.Machine

/-! ## Byte swaps -/

theorem byteOf_setWidth_inside {w : Nat} (v : BitVec w) {k : Nat} (inside : 8 * k + 8 ≤ w) (fits : w ≤ 64) :
    byteOf (v.setWidth 64) k = v.extractLsb' (8 * k) 8 := by
  refine BitVec.eq_of_getLsbD_eq fun i hi => ?_
  have : 8 * k + i < 64 := by omega
  simp [byteOf, hi, this]

theorem byteOf_setWidth_above {w : Nat} (v : BitVec w) {k : Nat} (above : w ≤ 8 * k) : byteOf (v.setWidth 64) k = 0 := by
  refine BitVec.eq_of_getLsbD_eq fun i hi => ?_
  simp [byteOf, BitVec.getLsbD_of_ge v (8 * k + i) (by omega)]

theorem byteOf_above (v : Word) {k : Nat} (above : 8 ≤ k) : byteOf v k = 0 := by
  simpa using byteOf_setWidth_above v (k := k) (by omega)

theorem extract_extract_low (a : Word) {w k : Nat} (inside : 8 * k + 8 ≤ w) :
    (a.extractLsb' 0 w).extractLsb' (8 * k) 8 = byteOf a k := by
  refine BitVec.eq_of_getLsbD_eq fun i hi => ?_
  have : 8 * k + i < w := by omega
  simp [byteOf, hi, this]

theorem bswap16_byte (v : BitVec 16) {k : Nat} (hk : k < 2) :
    (bswap16 v).extractLsb' (8 * k) 8 = v.extractLsb' (8 * (1 - k)) 8 := by
  change BitVec.extractLsb' (n := 8 + 8) _ _ (_ ++ _) = _
  obtain rfl | rfl : k = 0 ∨ k = 1 := by omega
  all_goals
    simp (disch := decide) only [BitVec.extractLsb'_append_eq_of_add_le, BitVec.extractLsb'_append_eq_of_le]
    exact BitVec.extractLsb'_eq_self

theorem bswap32_byte (v : BitVec 32) {k : Nat} (hk : k < 4) :
    (bswap32 v).extractLsb' (8 * k) 8 = v.extractLsb' (8 * (3 - k)) 8 := by
  change BitVec.extractLsb' (n := 8 + 8 + 8 + 8) _ _ (_ ++ _) = _
  obtain rfl | rfl | rfl | rfl : k = 0 ∨ k = 1 ∨ k = 2 ∨ k = 3 := by omega
  all_goals
    simp (disch := decide) only [BitVec.extractLsb'_append_eq_of_add_le, BitVec.extractLsb'_append_eq_of_le]
    exact BitVec.extractLsb'_eq_self

/-- A conversion of the low `n` bytes, of which `bswap` reverses the order: the bytes of the result. -/
theorem byteOf_toOrder {n : Nat} (host wanted : Endian) {bswap : BitVec (8 * n) → BitVec (8 * n)} (a : Word) (fits : n ≤ 8)
    (reverses : ∀ v k, k < n → (bswap v).extractLsb' (8 * k) 8 = v.extractLsb' (8 * (n - 1 - k)) 8) (k : Nat) :
    byteOf ((toOrder host wanted bswap (a.extractLsb' 0 (8 * n))).setWidth 64) k =
      if n ≤ k then 0 else if host = wanted then byteOf a k else byteOf a (n - 1 - k) := by
  by_cases above : n ≤ k
  · rw [if_pos above, byteOf_setWidth_above _ (by omega)]
  · rw [if_neg above, byteOf_setWidth_inside _ (by omega) (by omega), toOrder]
    split
    · exact extract_extract_low a (by omega)
    · rw [reverses _ _ (by omega), extract_extract_low a (by omega)]

theorem byteOf_toOrder64 (host wanted : Endian) (a : Word) (k : Nat) : byteOf (toOrder host wanted bswap64 a) k =
    if 8 ≤ k then 0 else if host = wanted then byteOf a k else byteOf a (7 - k) := by
  split
  · exact byteOf_above _ ‹_›
  · rw [toOrder]
    split
    · rfl
    · exact byteOf_bswap64 a (by omega)

/-- Settles O9: each instruction writes a `toOrder` of the low bytes. -/
theorem byteSwapBytes : Obligations.ByteSwapBytes := by
  intro s d a hd
  have swaps16 (wanted : Endian) := byteOf_toOrder (n := 2) s.cfg.endian wanted a (by decide) fun v k => bswap16_byte v
  have swaps32 (wanted : Endian) := byteOf_toOrder (n := 4) s.cfg.endian wanted a (by decide) fun v k => bswap32_byte v
  exact ⟨
    ⟨_, compute_defd hd d fun v => (toOrder s.cfg.endian .little bswap16 (v.extractLsb' 0 16)).setWidth 64, swaps16 .little⟩,
    ⟨_, compute_defd hd d fun v => (toOrder s.cfg.endian .little bswap32 (v.extractLsb' 0 32)).setWidth 64, swaps32 .little⟩,
    ⟨_, compute_defd hd d fun v => toOrder s.cfg.endian .little bswap64 v, byteOf_toOrder64 _ .little a⟩,
    ⟨_, compute_defd hd d fun v => (toOrder s.cfg.endian .big bswap16 (v.extractLsb' 0 16)).setWidth 64, swaps16 .big⟩,
    ⟨_, compute_defd hd d fun v => (toOrder s.cfg.endian .big bswap32 (v.extractLsb' 0 32)).setWidth 64, swaps32 .big⟩,
    ⟨_, compute_defd hd d fun v => toOrder s.cfg.endian .big bswap64 v, byteOf_toOrder64 _ .big a⟩⟩

/-! ## Jumps -/

section

variable {s : State}

theorem target?_none {pc : Nat} {disp : Int} (before : (pc : Int) + 1 + disp < 0) : target? pc disp = none :=
  if_neg (Int.not_le.2 before)

theorem State.jump_slot {disp : Int} {n : Nat} (target : (n : Int) = s.pc + 1 + disp) : s.jump disp = .next (s.at n) := by
  rw [State.jump, target?_some.2 target]
  rfl

theorem State.jump_beforeSlotZero {disp : Int} (before : (s.pc : Int) + 1 + disp < 0) :
    s.jump disp = .refused (.badTarget s.pc) := by
  rw [State.jump, target?_none before]

theorem State.branch_slot {off : Off} {n : Nat} (target : (n : Int) = s.pc + 1 + off.toInt) {cond : Bool} {p : Prop}
    [Decidable p] (meaning : cond = true ↔ p) : s.branch cond off = .next (s.at (if p then n else s.pc + 1)) := by
  rw [State.branch, State.jump_slot target]
  simp only [meaning]
  split <;> rfl

theorem State.branch_beforeSlotZero {off : Off} (before : (s.pc : Int) + 1 + off.toInt < 0) {cond : Bool} {p : Prop}
    [Decidable p] (meaning : cond = true ↔ p) :
    s.branch cond off = if p then .refused (.badTarget s.pc) else .next (s.at (s.pc + 1)) := by
  rw [State.branch, State.jump_beforeSlotZero before]
  simp only [meaning]
  rfl

variable {r : Reg} {a : Word} (hr : s.reg r = ⟨a, true⟩)
include hr

theorem jump64Imm_defd (cond : Word → Word → Bool) (imm : Imm) (off : Off) :
    jump64Imm cond r imm off s = s.branch (cond a (imm.signExtend 64)) off :=
  State.withReg_defd hr _

theorem jump32Imm_defd (cond : BitVec 32 → BitVec 32 → Bool) (imm : Imm) (off : Off) :
    jump32Imm cond r imm off s = s.branch (cond (a.setWidth 32) imm) off := by
  rw [jump32Imm, State.withReg_defd hr, low32_eq_setWidth]

variable {src : Reg} {b : Word} (hs : s.reg src = ⟨b, true⟩)
include hs

theorem jump64Reg_defd (cond : Word → Word → Bool) (off : Off) : jump64Reg cond r src off s = s.branch (cond a b) off := by
  rw [jump64Reg, State.withReg_defd hr, State.withReg_defd hs]

theorem jump32Reg_defd (cond : BitVec 32 → BitVec 32 → Bool) (off : Off) :
    jump32Reg cond r src off s = s.branch (cond (a.setWidth 32) (b.setWidth 32)) off := by
  rw [jump32Reg, State.withReg_defd hr, State.withReg_defd hs, low32_eq_setWidth, low32_eq_setWidth]

end

/-- The eleven conditions (R212, R246): a jump that answers by its condition on two operands answers by the comparison
each stands for. -/
theorem comparisons {w : Nat} {a b : BitVec w} {run : (BitVec w → BitVec w → Bool) → Result}
    {answer : (p : Prop) → [Decidable p] → Result}
    (answers : ∀ cond p [Decidable p], (cond a b = true ↔ p) → run cond = answer p) :
    run condEq = answer (a = b) ∧ run condGt = answer (b.toNat < a.toNat) ∧ run condGe = answer (b.toNat ≤ a.toNat) ∧
    run condSet = answer (a &&& b ≠ 0) ∧ run condNe = answer (a ≠ b) ∧ run condSgt = answer (b.toInt < a.toInt) ∧
    run condSge = answer (b.toInt ≤ a.toInt) ∧ run condLt = answer (a.toNat < b.toNat) ∧
    run condLe = answer (a.toNat ≤ b.toNat) ∧ run condSlt = answer (a.toInt < b.toInt) ∧
    run condSle = answer (a.toInt ≤ b.toInt) :=
  ⟨answers _ _ beq_iff_eq, answers _ _ decide_eq_true_iff, answers _ _ decide_eq_true_iff,
    answers _ _ (by simp [condSet]), answers _ _ (by simp [condNe]), answers _ _ decide_eq_true_iff,
    answers _ _ decide_eq_true_iff, answers _ _ decide_eq_true_iff, answers _ _ decide_eq_true_iff,
    answers _ _ decide_eq_true_iff, answers _ _ decide_eq_true_iff⟩

/-- Eleven comparisons, and what a statement says after them. -/
theorem comparisons_and {p₁ p₂ p₃ p₄ p₅ p₆ p₇ p₈ p₉ p₁₀ p₁₁ rest : Prop}
    (eleven : p₁ ∧ p₂ ∧ p₃ ∧ p₄ ∧ p₅ ∧ p₆ ∧ p₇ ∧ p₈ ∧ p₉ ∧ p₁₀ ∧ p₁₁) (after : rest) :
    p₁ ∧ p₂ ∧ p₃ ∧ p₄ ∧ p₅ ∧ p₆ ∧ p₇ ∧ p₈ ∧ p₉ ∧ p₁₀ ∧ p₁₁ ∧ rest := by
  simpa only [and_assoc] using And.intro eleven after

/-- Settles O10: `ja` is a jump; the others branch by their condition (`comparisons`). -/
theorem jump64Result : Obligations.Jump64Result := by
  intro s r src imm off a b n target
  refine ⟨State.jump_slot target, fun hr => comparisons_and ?_ fun hs => ?_⟩
  · exact comparisons (run := fun cond => jump64Imm cond r imm off s) fun cond _ _ meaning =>
      (jump64Imm_defd hr cond imm off).trans (State.branch_slot target meaning)
  · exact comparisons (run := fun cond => jump64Reg cond r src off s) fun cond _ _ meaning =>
      (jump64Reg_defd hr hs cond off).trans (State.branch_slot target meaning)

/-- Settles O11: as O10, on the low halves. -/
theorem jump32Result : Obligations.Jump32Result := by
  intro s r src imm off a b n target hr
  refine comparisons_and ?_ fun hs => ?_
  · exact comparisons (run := fun cond => jump32Imm cond r imm off s) fun cond _ _ meaning =>
      (jump32Imm_defd hr cond imm off).trans (State.branch_slot target meaning)
  · exact comparisons (run := fun cond => jump32Reg cond r src off s) fun cond _ _ meaning =>
      (jump32Reg_defd hr hs cond off).trans (State.branch_slot target meaning)

theorem State.call_beforeSlotZero {s : State} {disp : Int} (room : s.frames.length ≠ Config.maxCallDepth s.cfg)
    (before : (s.pc : Int) + 1 + disp < 0) : s.call disp = .refused (.badTarget s.pc) := by
  rw [State.call, if_neg room, target?_none before]

theorem State.withTarget_slot {s : State} {disp : Int} {n : Nat} (target : (n : Int) = s.pc + 1 + disp)
    (k : Nat → Result) : s.withTarget disp k = k n := by
  rw [State.withTarget, target?_some.2 target]

theorem State.withTarget_beforeSlotZero {s : State} {disp : Int} (before : (s.pc : Int) + 1 + disp < 0)
    (k : Nat → Result) : s.withTarget disp k = .refused (.badTarget s.pc) := by
  rw [State.withTarget, target?_none before]

theorem exec_ldCodeAddr (d : WReg) (disp : Imm) (s : State) : exec (.ldCodeAddr d disp) s =
    s.withTarget disp.toInt fun t => s.finishWide d (codeAddrOf s.cfg s.prog.length t) := rfl

/-- Settles O12: whatever names a slot before slot 0 is refused where it goes there. -/
theorem jumpBeforeSlotZero : Obligations.JumpBeforeSlotZero := by
  intro s r src imm off a b
  refine ⟨fun before => ⟨State.jump_beforeSlotZero before, fun hr => comparisons_and ?_ (comparisons_and ?_ fun hs =>
    comparisons_and ?_ ?_), fun room field => ?_⟩, fun d disp before => ⟨?_, fun room field => ?_⟩⟩
  · exact comparisons (run := fun cond => jump64Imm cond r imm off s) fun cond _ _ meaning =>
      (jump64Imm_defd hr cond imm off).trans (State.branch_beforeSlotZero before meaning)
  · exact comparisons (run := fun cond => jump32Imm cond r imm off s) fun cond _ _ meaning =>
      (jump32Imm_defd hr cond imm off).trans (State.branch_beforeSlotZero before meaning)
  · exact comparisons (run := fun cond => jump64Reg cond r src off s) fun cond _ _ meaning =>
      (jump64Reg_defd hr hs cond off).trans (State.branch_beforeSlotZero before meaning)
  · exact comparisons (run := fun cond => jump32Reg cond r src off s) fun cond _ _ meaning =>
      (jump32Reg_defd hr hs cond off).trans (State.branch_beforeSlotZero before meaning)
  · rw [exec_callLocal, field]
    exact State.call_beforeSlotZero room before
  · rw [exec_ldCodeAddr, State.withTarget_beforeSlotZero before]
  · rw [exec_callLocal, field]
    exact State.call_beforeSlotZero room before

end Sys2Proof.Machine

/-! PROOFS of the family other: what accesses find, read and store (spec/20_memory.md, spec/46_load_store.md,
spec/47_atomic.md). -/

namespace Sys2Proof.Machine

/-! ## Bytes -/

/-- Byte `i` of the stored bytes is byte `i` of the value, or the one as far from the other end (R58). -/
theorem toBytes_getElem? (e : Endian) (v : Word) {n i : Nat} (hi : i < n) :
    (toBytes e n v)[i]? = some (byteOf v (if e = .little then i else n - 1 - i)) := by
  cases e with
  | little => simp [toBytes, lowBytes_eq_map, hi]
  | big =>
    rw [toBytes, List.getElem?_reverse (by simpa using hi)]
    have inside : n - 1 - i < n := by omega
    simp [lowBytes_eq_map, inside]

/-- A store of `n` bytes takes the low `n` bytes of its value. -/
theorem toBytes_congr (e : Endian) {n : Nat} {v w : Word} (same : ∀ k < n, byteOf v k = byteOf w k) :
    toBytes e n v = toBytes e n w := by
  have low : lowBytes v n = lowBytes w n := by
    simp only [lowBytes_eq_map]
    exact List.map_congr_left fun k hk => same k (List.mem_range.1 hk)
  cases e <;> simp only [toBytes, low]

theorem State.store_get? (s : State) (a v : Word) {n x : Nat} (inside : a.toNat ≤ x ∧ x < a.toNat + n) :
    (s.store a n v).mem.get? x = some (byteOf v (if s.cfg.endian = .little then x - a.toNat else n - 1 - (x - a.toNat))) := by
  rw [State.store_mem, Memory.get?_putBytes, toBytes_length, if_pos inside, toBytes_getElem? _ _ (by omega)]

theorem State.store_get?_outside (s : State) (a v : Word) {n x : Nat} (outside : x < a.toNat ∨ a.toNat + n ≤ x) :
    (s.store a n v).mem.get? x = s.mem.get? x := by
  rw [State.store_mem, Memory.get?_putBytes, toBytes_length, if_neg (by omega)]

theorem State.byteIn_written {s : State} {x : Nat} {b : Byte} (written : s.mem.get? x = some b) (lr : LiveRegion) :
    s.byteIn lr x = b := by
  rw [State.byteIn, written, Option.getD_some]

theorem State.byteIn_unwritten {s : State} {x : Nat} (unwritten : s.mem.get? x = none) (lr : LiveRegion) :
    s.byteIn lr x = Config.freeByte lr.birth x := by
  rw [State.byteIn, unwritten, Option.getD_none]

/-- Settles O19: a byte read is the one memory lists, else the drawn one; a store lists exactly the bytes it covers. -/
theorem unwrittenByteDrawn : Obligations.UnwrittenByteDrawn := by
  intro s lr x a n v unwritten
  refine ⟨State.byteIn_unwritten unwritten lr, fun outside => ?_, fun low high => ?_⟩
  · exact State.byteIn_unwritten ((s.store_get?_outside a v outside).trans unwritten) lr
  · exact State.byteIn_written (s.store_get? a v ⟨low, high⟩) lr

theorem low_bytes_toNat (v : Word) {n : Nat} (fits : n ≤ 8) :
    ((v.extractLsb' 0 (8 * n)).setWidth 64).toNat = v.toNat % 2 ^ (8 * n) := by
  have small : v.toNat % 2 ^ (8 * n) < 2 ^ 64 :=
    Nat.lt_of_lt_of_le (Nat.mod_lt _ (Nat.two_pow_pos _)) (Nat.pow_le_pow_right (by decide) (by omega))
  rw [BitVec.toNat_setWidth, BitVec.extractLsb'_toNat, Nat.shiftRight_zero, Nat.mod_eq_of_lt small]

/-- Settles O17: the bytes read are the window of the whole store (`State.valueAt_store_little`,
`State.valueAt_store_big`). -/
theorem storeThenReadBytes : Obligations.StoreThenReadBytes := by
  intro s lr a v n width _
  have fits : n ≤ 8 := by
    simp only [List.mem_cons, List.not_mem_nil, or_false] at width
    omega
  have start : a.toNat = a.toNat + 0 := rfl
  have whole : 0 + n ≤ n := by omega
  cases order : s.cfg.endian with
  | little => rw [State.valueAt_store_little s lr a v order start whole, Nat.mul_zero, low_bytes_toNat v fits]
  | big => rw [State.valueAt_store_big s lr a v order start whole, Nat.sub_zero, Nat.sub_self, Nat.mul_zero,
      low_bytes_toNat v fits]

/-! ## Regions -/

theorem Region.covers_iff {r : Region} {a n : Nat} : Region.covers r a n = true ↔ r.base ≤ a ∧ a + n ≤ r.base + r.len := by
  simp [Region.covers]

theorem State.region?_none_iff {s : State} {need : Access} {a : Word} {n : Nat} :
    s.region? need a n = none ↔ ¬ ∃ lr ∈ s.live, Region.allows lr.region need = true ∧ lr.region.base ≤ a.toNat ∧
      a.toNat + n ≤ lr.region.base + lr.region.len ∧ a.toNat + n ≤ 2 ^ 64 := by
  simp only [State.region?, List.find?_eq_none, Bool.and_eq_true, decide_eq_true_eq, Region.covers_iff, not_exists, not_and,
    and_assoc]

/-- The frames that are live are those of the call depths up to the current one (R54). -/
theorem mem_frameRegions {cfg : Config} {frames : List CallRecord} {r : Region} :
    (∃ lr ∈ frameRegions cfg frames, lr.region = r) ↔ ∃ d, d ≤ frames.length ∧ r = Config.frameRegion cfg d := by
  induction frames with
  | nil => simp [frameRegions, eq_comm]
  | cons record rest ih =>
    simp only [frameRegions, List.mem_cons, exists_eq_or_imp, ih, List.length_cons]
    constructor
    · rintro (rfl | ⟨d, shallow, frame⟩)
      · exact ⟨_, Nat.le_refl _, rfl⟩
      · exact ⟨d, by omega, frame⟩
    · rintro ⟨d, depth, frame⟩
      obtain deepest | shallow : d = rest.length + 1 ∨ d ≤ rest.length := by omega
      · exact .inl (frame.trans (deepest ▸ rfl)).symm
      · exact .inr ⟨d, shallow, frame⟩

theorem State.mem_live {s : State} {r : Region} : (∃ lr ∈ s.live, lr.region = r) ↔
    (∃ q ∈ s.cfg.regions, r = { q with shared := q.shared || Config.isValueArea s.cfg q }) ∨
      ∃ d, d ≤ s.frames.length ∧ r = Config.frameRegion s.cfg d := by
  have listed : (∃ lr ∈ (Config.dataRegions s.cfg).map (⟨·, 0⟩), LiveRegion.region lr = r) ↔
      ∃ q ∈ s.cfg.regions, r = { q with shared := q.shared || Config.isValueArea s.cfg q } := by
    simp only [Config.dataRegions, List.mem_map]
    constructor
    · rintro ⟨_, ⟨_, ⟨q, mem, rfl⟩, rfl⟩, rfl⟩
      exact ⟨q, mem, rfl⟩
    · rintro ⟨q, mem, rfl⟩
      exact ⟨_, ⟨_, ⟨q, mem, rfl⟩, rfl⟩, rfl⟩
  rw [← mem_frameRegions, ← listed]
  simp only [State.live, List.mem_append, or_and_right, exists_or]

/-- Settles O16: the search for a region (`State.region?_none_iff`, `State.region?_some`) and the list it searches. -/
theorem regionFound : Obligations.RegionFound := by
  intro s need a n
  refine ⟨State.region?_none_iff, fun lr found => ?_, fun r => State.mem_live⟩
  obtain ⟨live, allows, low, high, -⟩ := State.region?_some found
  exact ⟨live, allows, low, high⟩

/-! ## The regular accesses -/

section

variable {s : State} {a : Word} {n : Nat}

theorem misaligned_eq_false (aligned : a.toNat % n = 0) : misaligned a n = false := by
  simpa [misaligned] using aligned

theorem misaligned_eq_true (unaligned : a.toNat % n ≠ 0) : misaligned a n = true := by
  simpa [misaligned] using unaligned

theorem not_alignFault (passes : s.cfg.alignPolicy = .fault → a.toNat % n = 0) :
    ¬ (s.cfg.alignPolicy = .fault ∧ misaligned a n = true) := by
  rintro ⟨fault, unaligned⟩
  simp [misaligned_eq_false (passes fault)] at unaligned

theorem State.memRead_misaligned (policy : s.cfg.alignPolicy = .fault) (unaligned : a.toNat % n ≠ 0)
    (k : Word → State → Result) : s.memRead a n k = .next (s.faultedWith (.misaligned a)) :=
  if_pos ⟨policy, misaligned_eq_true unaligned⟩

theorem State.memWrite_misaligned (policy : s.cfg.alignPolicy = .fault) (unaligned : a.toNat % n ≠ 0) (v : Word)
    (k : State → Result) : s.memWrite a n v k = .next (s.faultedWith (.misaligned a)) :=
  if_pos ⟨policy, misaligned_eq_true unaligned⟩

variable (passes : s.cfg.alignPolicy = .fault → a.toNat % n = 0)
include passes

theorem State.memRead_noRegion (noRegion : s.region? .read a n = none) (k : Word → State → Result) :
    s.memRead a n k = .next (s.faultedWith (.memAccess a)) := by
  rw [State.memRead, if_neg (not_alignFault passes), noRegion]
  rfl

theorem State.memWrite_noRegion (noRegion : s.region? .write a n = none) (v : Word) (k : State → Result) :
    s.memWrite a n v k = .next (s.faultedWith (.memAccess a)) := by
  rw [State.memWrite, if_neg (not_alignFault passes), noRegion]
  rfl

theorem State.memRead_found {lr : LiveRegion} (found : s.region? .read a n = some lr) (k : Word → State → Result) :
    s.memRead a n k = k (s.load lr a n).1 (s.load lr a n).2 := by
  rw [State.memRead, if_neg (not_alignFault passes), found]

theorem State.memWrite_found {lr : LiveRegion} (found : s.region? .write a n = some lr) (v : Word) (k : State → Result) :
    s.memWrite a n v k = k (s.store a n v) := by
  rw [State.memWrite, if_neg (not_alignFault passes), found]

end

section

variable {s : State} {b : Reg} {off : Off} {base : Word} {lr : LiveRegion} {n : Nat} (hb : s.reg b = ⟨base, true⟩)
  (passes : s.cfg.alignPolicy = .fault → (base + off.signExtend 64).toNat % n = 0)
include hb passes

theorem load_found (found : s.region? .read (base + off.signExtend 64) n = some lr) (d : WReg) :
    load n d b off s = .next ((s.load lr (base + off.signExtend 64) n).2.wrote d
      (s.load lr (base + off.signExtend 64) n).1 1) := by
  rw [load, State.withReg_defd hb, effAddr, sextOff, State.memRead_found passes found, State.finish_eq]

variable (found : s.region? .write (base + off.signExtend 64) n = some lr)
include found

theorem storeImm_found (imm : Imm) :
    storeImm n b off imm s = .next (s.stored (base + off.signExtend 64) n (imm.signExtend 64)) := by
  rw [storeImm, State.withReg_defd hb, effAddr, sextOff, State.memWrite_found passes found]
  rfl

theorem storeReg_found {src : Reg} {v : Word} (hs : s.reg src = ⟨v, true⟩) :
    storeReg n b off src s = .next (s.stored (base + off.signExtend 64) n v) := by
  rw [storeReg, State.withReg_defd hb, State.withReg_defd hs, effAddr, sextOff, State.memWrite_found passes found]
  rfl

end

/-- Settles O13: a load writes what `State.load` reads. -/
theorem loadResult : Obligations.LoadResult := by
  intro s d src off base lr hs p width passes found
  have runs : exec p.1 s = load p.2 d src off s := by
    simp only [List.mem_cons, List.not_mem_nil, or_false] at width
    obtain rfl | rfl | rfl | rfl := width <;> rfl
  rw [runs, load_found hs passes found]
  refine ⟨fun isPrivate => ?_, fun shared havoc => ?_, fun shared sc aligned => ?_, fun shared sc unaligned => ⟨?_, ?_, ?_, ?_⟩,
    _, rfl, ?_, ?_⟩
  · rw [State.load_bytes s (.inl isPrivate), State.valueAt]
  · rw [State.load_havoc _ _ _ shared havoc]
    rfl
  · rw [State.load_bytes s (.inr ⟨sc, misaligned_eq_false aligned⟩), State.valueAt]
  · rw [State.load_seen _ shared sc (misaligned_eq_true unaligned)]
    rfl
  · simp [State.seenBytes]
  · exact fun i inside => ⟨Config.seenAfter s.draws i, by simp [State.seenBytes, inside]⟩
  · exact s.seenBytes_silent lr _ _
  · exact congrArg (· + 1) (s.load_pc lr _ _)
  · exact s.load_mem lr _ _

/-- Settles O14: a store changes memory by `State.store`, whose bytes are `State.store_get?` and `State.store_byteAt`. -/
theorem storeResult : Obligations.StoreResult := by
  intro s dst src off imm base v lr hd
  refine ⟨fun p width passes found => ?_, fun hs p width passes found => ?_, fun a u n => ⟨fun i inside => ?_, fun x outside => ?_⟩⟩
  · have runs : exec p.1 s = storeImm p.2 dst off imm s := by
      simp only [List.mem_cons, List.not_mem_nil, or_false] at width
      obtain rfl | rfl | rfl | rfl := width <;> rfl
    rw [runs, storeImm_found hd passes found]
  · have runs : exec p.1 s = storeReg p.2 dst off src s := by
      simp only [List.mem_cons, List.not_mem_nil, or_false] at width
      obtain rfl | rfl | rfl | rfl := width <;> rfl
    rw [runs, storeReg_found hd passes found hs]
  · have stored := s.store_get? a u (n := n) (x := a.toNat + i) (by omega)
    rwa [Nat.add_sub_cancel_left] at stored
  · exact (State.byteAt_congr rfl rfl rfl x).trans (s.store_byteAt a n u x outside)

/-- A regular access is one of the three meanings. -/
theorem exec_regular_cases (s : State) {i : Instr} {b : Reg} {off : Off} {n : Nat} {need : Access}
    (regular : Instr.regularAccess i = some (b, off, n, need)) :
    (need = .read ∧ Instr.reads s i = [b] ∧ ∃ d, exec i s = load n d b off s) ∨
    (need = .write ∧ Instr.reads s i = [b] ∧ ∃ imm, exec i s = storeImm n b off imm s) ∨
    (need = .write ∧ ∃ src, Instr.reads s i = [b, src] ∧ exec i s = storeReg n b off src s) := by
  cases i with
  | ldxw | ldxh | ldxb | ldxdw =>
    cases regular
    exact .inl ⟨rfl, rfl, _, rfl⟩
  | stw | sth | stb | stdw =>
    cases regular
    exact .inr (.inl ⟨rfl, rfl, _, rfl⟩)
  | stxw | stxh | stxb | stxdw =>
    cases regular
    exact .inr (.inr ⟨rfl, _, rfl, rfl⟩)
  | _ => cases regular

/-- From defined registers a regular access is `MemRead` or `MemWrite` at the effective address. -/
theorem exec_regular {s : State} {i : Instr} {b : Reg} {off : Off} {n : Nat} {need : Access} {base : Word}
    (regular : Instr.regularAccess i = some (b, off, n, need)) (defd : s.firstUndefined (Instr.reads s i) = none)
    (hb : s.reg b = ⟨base, true⟩) :
    (need = .read ∧ ∃ k, exec i s = s.memRead (base + off.signExtend 64) n k) ∨
    (need = .write ∧ ∃ v k, exec i s = s.memWrite (base + off.signExtend 64) n v k) := by
  obtain ⟨need, reads, d, runs⟩ | ⟨need, reads, imm, runs⟩ | ⟨need, src, reads, runs⟩ := exec_regular_cases s regular
  · exact .inl ⟨need, _, runs.trans (State.withReg_defd hb _)⟩
  · exact .inr ⟨need, _, _, runs.trans (State.withReg_defd hb _)⟩
  · rw [reads, State.firstUndefined_cons_defd (by rw [hb])] at defd
    have hs : (s.reg src).defd = true := by simpa [State.firstUndefined] using defd
    rw [storeReg, State.withReg_defd hb, State.withReg_of_defd hs] at runs
    exact .inr ⟨need, _, _, runs⟩

/-- Settles O15: the two primitives check the alignment and then the region. -/
theorem regularAccessTraps : Obligations.RegularAccessTraps := by
  intro s i b off n need base regular defd hb
  have wide : (base + off.signExtend 64).toNat % n ≠ 0 → n ≠ 1 := fun unaligned one => unaligned (one ▸ Nat.mod_one _)
  obtain ⟨rfl, k, runs⟩ | ⟨rfl, v, k, runs⟩ := exec_regular regular defd hb
  all_goals rw [runs]
  · exact ⟨fun policy unaligned => ⟨State.memRead_misaligned policy unaligned k, wide unaligned⟩,
      fun passes noRegion => State.memRead_noRegion (by simpa using passes) noRegion k⟩
  · exact ⟨fun policy unaligned => ⟨State.memWrite_misaligned policy unaligned v k, wide unaligned⟩,
      fun passes noRegion => State.memWrite_noRegion (by simpa using passes) noRegion v k⟩

/-! ## The atomic operations -/

section

variable {s s' : State} {b : Reg} {off : Off} {base old : Word} {lr : LiveRegion} {n : Nat}

theorem State.atomicRMW_found {a : Word} (aligned : a.toNat % n = 0) (found : s.region? .rmw a n = some lr)
    (loads : s.load lr a n = (old, s')) (f : Word → Word) (k : Word → State → Result) :
    s.atomicRMW a n f k = k old (s'.store a n (f old)) := by
  rw [State.atomicRMW, if_neg (by simp [misaligned_eq_false aligned]), found]
  simp only [loads]

/-- The read of an atomic operation: the bytes, or a draw; what it stores leaves every other byte (R58, R62). -/
theorem State.load_atomic {a : Word} (aligned : a.toNat % n = 0) (loads : s.load lr a n = (old, s')) :
    (lr.region.shared = false ∨ s.cfg.sharedModel = .sc → old = ofBytes s.cfg.endian (s.bytesIn lr a.toNat n) ∧ s' = s) ∧
    (lr.region.shared = true → s.cfg.sharedModel = .havoc →
      old = truncBytes n (Config.havocValue s.draws) ∧ s' = { s with draws := s.draws + 1 }) ∧
    ∀ v x, x < a.toNat ∨ a.toNat + n ≤ x → (s'.store a n v).byteAt x = s.byteAt x := by
  refine ⟨fun bytes => ?_, fun shared havoc => ?_, fun v x outside => ?_⟩
  · rw [State.load_bytes s (bytes.imp_right fun sc => ⟨sc, misaligned_eq_false aligned⟩)] at loads
    cases loads
    exact ⟨rfl, rfl⟩
  · rw [State.load_havoc s a n shared havoc] at loads
    cases loads
    exact ⟨rfl, rfl⟩
  · have after : s' = (s.load lr a n).2 := by rw [loads]
    rw [State.store_byteAt s' a n v x outside, after]
    exact State.byteAt_congr (s.load_mem lr a n) (s.load_cfg lr a n) (s.load_frames lr a n) x

variable (hb : s.reg b = ⟨base, true⟩) (aligned : (base + off.signExtend 64).toNat % n = 0)
  (found : s.region? .rmw (base + off.signExtend 64) n = some lr)
  (loads : s.load lr (base + off.signExtend 64) n = (old, s')) {val : Word}
include hb aligned found loads

theorem atomicOp_found {src : Reg} (hs : s.reg src = ⟨val, true⟩) (op : Word → Word → Word) :
    atomicOp n op b off src s = .next (s'.stored (base + off.signExtend 64) n (op old val)) := by
  rw [atomicOp, State.withReg_defd hb, State.withReg_defd hs, effAddr, sextOff, State.atomicRMW_found aligned found loads]
  rfl

theorem atomicFetch_found {d : WReg} (hs : s.reg d.toReg = ⟨val, true⟩) (op : Word → Word → Word) :
    atomicFetch n op b off d s = .next ((s'.store (base + off.signExtend 64) n (op old val)).wrote d old 1) := by
  rw [atomicFetch, State.withReg_defd hb, State.withReg_defd hs, effAddr, sextOff,
    State.atomicRMW_found aligned found loads, State.finish_eq]

theorem atomicCmpxchg_found {src : Reg} {exp : Word} (hs : s.reg src = ⟨val, true⟩) (h0 : s.reg 0 = ⟨exp, true⟩)
    (cut : Word → Word) : atomicCmpxchg n cut b off src s =
      .next ((s'.store (base + off.signExtend 64) n (if old = cut exp then cut val else old)).wrote 0 old 1) := by
  rw [atomicCmpxchg, State.withReg_defd hb, State.withReg_defd hs, State.withReg_defd h0, effAddr, sextOff,
    State.atomicRMW_found aligned found loads, State.finish_eq]

end

theorem on32_eq (f : BitVec 32 → BitVec 32 → BitVec 32) (old val : Word) :
    on32 f old val = (f (old.setWidth 32) (val.setWidth 32)).setWidth 64 := by
  rw [on32, low32_eq_setWidth, low32_eq_setWidth, zext64]

/-- A store of four bytes does not see the high half. -/
theorem State.store_low32 (s : State) (a v : Word) : s.store a 4 ((v.setWidth 32).setWidth 64) = s.store a 4 v := by
  have same : ∀ k < 4, byteOf ((v.setWidth 32).setWidth 64) k = byteOf v k := fun k hk => by
    refine BitVec.eq_of_getLsbD_eq fun i hi => ?_
    have : 8 * k + i < 32 := by omega
    have : 8 * k + i < 64 := by omega
    simp [byteOf, *]
  rw [State.store, toBytes_congr _ same, State.store]

/-- Settles O20: each operation is `atomicOp`, `atomicFetch` or `atomicCmpxchg` on the low halves. -/
theorem atomic32Result : Obligations.Atomic32Result := by
  intro s s' dst src d off base val exp old lr hb aligned found loads
  refine ⟨fun hs => ?_, fun hs => ?_, State.load_atomic aligned loads⟩
  · have op (f) := on32_eq f old val ▸ atomicOp_found hb aligned found loads hs (on32 f)
    refine ⟨op _, op _, op _, op _, fun h0 => ?_⟩
    rw [← low32_eq_setWidth, ← low32_eq_setWidth]
    exact atomicCmpxchg_found hb aligned found loads hs h0 fun v => zext64 (low32 v)
  · have op (f) := on32_eq f old val ▸ atomicFetch_found hb aligned found loads hs (on32 f)
    exact ⟨op _, op _, op _, op _, State.store_low32 s' _ val ▸ op fun _ v => v⟩

/-- Settles O21: as O20, on the whole registers. -/
theorem atomic64Result : Obligations.Atomic64Result := by
  intro s s' dst src d off base val exp old lr hb aligned found loads
  refine ⟨fun hs => ?_, fun hs => ?_, State.load_atomic aligned loads⟩
  · have op := atomicOp_found hb aligned found loads hs
    exact ⟨op _, op _, op _, op _, fun h0 => atomicCmpxchg_found hb aligned found loads hs h0 fun v => v⟩
  · have op := atomicFetch_found hb aligned found loads hs
    exact ⟨op _, op _, op _, op _, op fun _ v => v⟩

end Sys2Proof.Machine

/-! PROOFS of the family other: the platform's operands (spec/48_imm64.md), calls, returns and helpers
(spec/45_call_exit.md), other agents (spec/20_memory.md). -/

namespace Sys2Proof.Machine

/-! ## The operands of the platform -/

section

variable {s : State} {imm : Imm} {m v : Word}

theorem State.mapAddr_some {maps : List (Imm × Word)} (supported : s.cfg.mapsSupported = true)
    (names : maps.lookup imm = some m) : s.mapAddr maps imm = some m :=
  (if_pos supported).trans names

theorem State.mapValue_some {maps : List (Imm × Word)} (supported : s.cfg.mapsSupported = true)
    (names : maps.lookup imm = some m) (area : s.cfg.mva.lookup m = some v) : s.mapValue maps imm = some v := by
  rw [State.mapValue, State.mapAddr_some supported names, Option.bind_some, area]

theorem State.varAddr_some (supported : s.cfg.varsSupported = true) (names : s.cfg.variableAddr.lookup imm = some m) :
    s.varAddr imm = some m :=
  (if_pos supported).trans names

theorem State.withOperand_wide {operand : Option Word} (has : operand = some v) (d : WReg) (f : Word → Word) :
    (s.withOperand operand fun a => s.finishWide d (f a)) = .next (s.wrote d (f v) 2) := by
  rw [has, State.withOperand, State.finishWide_eq]

theorem State.withOperand_lacks {operand : Option Word} (lacks : operand.isSome = false) (k : Word → Result) :
    s.withOperand operand k = .refused (.unsupported s.pc) := by
  cases operand with
  | none => rfl
  | some a => cases lacks

theorem State.helper_lacks {space : HelperSpace} {table : List (Imm × Helper)} {id : Imm}
    (lacks : (table.lookup id).isSome = false) : s.helper space table id = .refused (.unknownHelper s.pc) := by
  rw [State.helper, Option.isSome_eq_false_iff.1 lacks |> Option.isNone_iff_eq_none.1]

end

/-- Settles O24: each load is `State.withOperand` or `State.withTarget` of the platform's parameter. -/
theorem platformAddressLoads : Obligations.PlatformAddressLoads := by
  intro s d imm nextImm m v t
  refine ⟨fun supported names => ⟨?_, fun area => ?_⟩, fun supported names => ⟨?_, fun area => ?_⟩,
    fun supported names => ?_, fun target => ?_⟩
  · exact State.withOperand_wide (State.mapAddr_some supported names) d fun a => a
  · exact State.withOperand_wide (State.mapValue_some supported names area) d fun a => a + zext64 nextImm
  · exact State.withOperand_wide (State.mapAddr_some supported names) d fun a => a
  · exact State.withOperand_wide (State.mapValue_some supported names area) d fun a => a + zext64 nextImm
  · exact State.withOperand_wide (State.varAddr_some supported names) d fun a => a
  · rw [exec_ldCodeAddr, State.withTarget_slot target, State.finishWide_eq]

theorem exec_unsupported {s : State} {i : Instr} (lacks : i.operandSupported s.cfg = false) :
    exec i s = .refused (.unsupported s.pc) := by
  cases i with
  | ldMapFd | ldMapIdx => exact State.withOperand_lacks ((s.mapAddr_isSome _ _).symm.trans lacks) _
  | ldMapFdValue | ldMapIdxValue => exact State.withOperand_lacks ((s.mapValue_isSome _ _).symm.trans lacks) _
  | ldVarAddr => exact State.withOperand_lacks ((s.varAddr_isSome _).symm.trans lacks) _
  | _ => cases lacks

theorem exec_unknownHelper {s : State} {i : Instr} (lacks : i.helperKnown s.cfg = false) :
    exec i s = .refused (.unknownHelper s.pc) := by
  cases i with
  | callHelper | callPlatform => exact State.helper_lacks lacks
  | _ => cases lacks

/-- Settles O25: the refusals are `exec_unsupported` and `exec_unknownHelper`. -/
theorem unsupportedOperandsRefused : Obligations.UnsupportedOperandsRefused := fun s i =>
  ⟨fun lacks => ⟨by simp [Instr.wellFormed, lacks], exec_unsupported lacks⟩,
    fun lacks => ⟨by simp [Instr.wellFormed, lacks], exec_unknownHelper lacks⟩⟩

theorem wellFormed_legacy {i : Instr} (legacy : i.isLegacy = true) (cfg : Config) : i.wellFormed cfg = false := by
  simp [Instr.wellFormed, legacy]

/-- Settles O31: each of the eight is a legacy instruction. -/
theorem legacyPacketRefused : Obligations.LegacyPacketRefused := by
  intro s x y off imm i eight
  simp only [List.mem_cons, List.not_mem_nil, or_false] at eight
  obtain rfl | rfl | rfl | rfl | rfl | rfl | rfl | rfl := eight <;> exact ⟨wellFormed_legacy rfl s.cfg, rfl⟩

/-! ## Calls and returns -/

theorem State.enter_reg_arg (s : State) (n : Nat) {r : Reg} (arg : r ∈ ([1, 2, 3, 4, 5] : List Reg)) :
    (s.enter n).reg r = s.reg r := by
  have kept : ∀ r ∈ ([1, 2, 3, 4, 5] : List Reg), r ≠ 10 ∧ ¬ isFresh r = true := by decide
  obtain ⟨notTen, notFresh⟩ := kept r arg
  rw [State.enter_reg, if_neg notTen, if_neg notFresh]

theorem State.enter_reg_fresh (s : State) (n : Nat) {r : Reg} (fresh : r ∈ ([0, 6, 7, 8, 9] : List Reg)) :
    ((s.enter n).reg r).defd = false := by
  have undefined : ∀ r ∈ ([0, 6, 7, 8, 9] : List Reg), r ≠ 10 ∧ isFresh r = true := by decide
  obtain ⟨notTen, isFresh⟩ := undefined r fresh
  rw [State.enter_reg, if_neg notTen, if_pos isFresh]

/-- Settles O26: the next state is `State.enter`. -/
theorem localCallEnters : Obligations.LocalCallEnters := by
  intro s off imm n room target
  rw [← callDisp_eq_ite] at target
  refine ⟨s.enter n, (exec_callLocal off imm s).trans (State.call_enters room target), s.enter_pc n, s.enter_frames n,
    fun r arg => s.enter_reg_arg n arg, fun r fresh => s.enter_reg_fresh n fresh, ?_, fun x => ?_, s.enter_prog n,
    s.enter_status n, s.enter_cfg n, s.enter_env n, s.enter_draws n⟩
  · rw [State.enter_reg, if_pos rfl, Config.frameTop]
  · rw [State.enter_mem, Memory.get?_forget]

theorem exec_exit (s : State) : exec .exit s = s.ret := rfl

theorem State.ret_outermost {s : State} (outermost : s.frames = []) :
    s.ret = s.withReg 0 fun v => .next { s with status := .exited v } := by
  rw [State.ret, outermost]

theorem State.ret_inner {s : State} {r : CallRecord} {rest : List CallRecord} (top : s.frames = r :: rest) :
    s.ret = .next (s.leave r rest) := by
  rw [State.ret, top]

theorem State.leave_reg_arg (s : State) (r : CallRecord) (rest : List CallRecord) {q : Reg}
    (arg : q ∈ ([1, 2, 3, 4, 5] : List Reg)) : ((s.leave r rest).reg q).defd = false := by
  have notSaved : ∀ q ∈ ([1, 2, 3, 4, 5] : List Reg), q ≠ 10 ∧ q ≠ 9 ∧ q ≠ 8 ∧ q ≠ 7 ∧ q ≠ 6 ∧ isArg q = true := by decide
  obtain ⟨ne10, ne9, ne8, ne7, ne6, isArg⟩ := notSaved q arg
  rw [State.leave_reg, if_neg ne10, if_neg ne9, if_neg ne8, if_neg ne7, if_neg ne6, if_pos isArg]

/-- Settles O28: at depth 0 the run ends with R0, above it the next state is `State.leave`. -/
theorem exitTwoMeanings : Obligations.ExitTwoMeanings := by
  intro s
  rw [exec_exit]
  refine ⟨fun outermost v defd => ?_, fun outermost undef => ?_, fun r rest top => ⟨s.leave r rest, State.ret_inner top,
    s.leave_pc r rest, s.leave_frames r rest, s.leave_reg r rest 6, s.leave_reg r rest 7, s.leave_reg r rest 8,
    s.leave_reg r rest 9, s.leave_reg r rest 10, fun q arg => s.leave_reg_arg r rest arg, s.leave_reg r rest 0, fun x => ?_,
    s.leave_prog r rest, s.leave_status r rest, s.leave_cfg r rest, s.leave_env r rest, s.leave_draws r rest⟩⟩
  · rw [State.ret_outermost outermost, State.withReg_defd defd]
  · rw [State.ret_outermost outermost, State.withReg_undef undef, State.faultedWith]
  · rw [State.leave_mem, Memory.get?_forget]

/-! ## Helpers -/

section

variable {s : State} {space : HelperSpace} {table : List (Imm × Helper)} {id : Imm} {h : Helper}
  (known : table.lookup id = some h)
include known

theorem State.helper_undef {r : Reg} (undef : s.firstUndefined (argRegs h.arity) = some r) :
    s.helper space table id = .next (s.faultedWith (.uninitRegister r)) := by
  rw [State.helper, known]
  exact State.withRegs_undef undef _

variable (defd : s.firstUndefined (argRegs h.arity) = none)
include defd

theorem State.helper_fault {info : Nat}
    (out : s.outcome space id h ((argRegs h.arity).map fun r => (s.reg r).val) = .fault info) :
    s.helper space table id = .next (s.faultedWith (.helperFault info)) := by
  simp only [State.helper, known, State.withRegs_defd defd, out]
  rfl

theorem State.helper_ret {v : Option Word} {w : List Host.Cell}
    (out : s.outcome space id h ((argRegs h.arity).map fun r => (s.reg r).val) = .ret v w) :
    s.helper space table id = .next (s.afterHelper v w) := by
  simp only [State.helper, known, State.withRegs_defd defd, out]

end

/-- A helper changes only bytes of writable regions (R278). -/
theorem State.afterHelper_get? (s : State) (v : Option Word) (w : List Host.Cell) {x : Nat}
    (fixed : s.writableByte x = false) : (s.afterHelper v w).mem.get? x = s.mem.get? x := by
  rw [State.afterHelper_mem]
  refine Memory.get?_putCells _ _ _ fun c written same => ?_
  simp [same, fixed] at written

theorem State.afterHelper_reg_some (s : State) (x : Word) (w : List Host.Cell) :
    (s.afterHelper (some x) w).reg 0 = ⟨x, true⟩ := by
  rw [State.afterHelper_reg, if_pos rfl]

theorem State.afterHelper_reg_none (s : State) (w : List Host.Cell) : ((s.afterHelper none w).reg 0).defd = false := by
  rw [State.afterHelper_reg, if_pos rfl]

theorem State.afterHelper_reg_arg (s : State) (v : Option Word) (w : List Host.Cell) {r : Reg}
    (arg : r ∈ ([1, 2, 3, 4, 5] : List Reg)) : ((s.afterHelper v w).reg r).defd = false := by
  have undefined : ∀ r ∈ ([1, 2, 3, 4, 5] : List Reg), r ≠ 0 ∧ isArg r = true := by decide
  obtain ⟨notZero, isArg⟩ := undefined r arg
  rw [State.afterHelper_reg, if_neg notZero, if_pos isArg]

theorem State.afterHelper_reg_saved (s : State) (v : Option Word) (w : List Host.Cell) {r : Reg}
    (saved : r ∈ ([6, 7, 8, 9, 10] : List Reg)) : (s.afterHelper v w).reg r = s.reg r := by
  have kept : ∀ r ∈ ([6, 7, 8, 9, 10] : List Reg), r ≠ 0 ∧ ¬ isArg r = true := by decide
  obtain ⟨notZero, notArg⟩ := kept r saved
  rw [State.afterHelper_reg, if_neg notZero, if_neg notArg]

/-- What the return of a helper changes, and what it keeps (R278, R279). -/
theorem State.afterHelper_effects (s : State) (v : Option Word) (w : List Host.Cell) :
    (s.afterHelper v w).pc = s.pc + 1 ∧
    (∀ x, v = some x → (s.afterHelper v w).reg 0 = ⟨x, true⟩) ∧ (v = none → ((s.afterHelper v w).reg 0).defd = false) ∧
    (∀ r ∈ ([1, 2, 3, 4, 5] : List Reg), ((s.afterHelper v w).reg r).defd = false) ∧
    (∀ r ∈ ([6, 7, 8, 9, 10] : List Reg), (s.afterHelper v w).reg r = s.reg r) ∧
    (∀ x, s.writableByte x = false → (s.afterHelper v w).mem.get? x = s.mem.get? x) ∧
    (s.afterHelper v w).mem = s.mem.putCells (w.filter fun c => s.writableByte c.1) ∧
    (s.afterHelper v w).frames = s.frames ∧ (s.afterHelper v w).prog = s.prog ∧ (s.afterHelper v w).status = s.status ∧
    (s.afterHelper v w).cfg = s.cfg ∧ (s.afterHelper v w).env = s.env :=
  ⟨s.afterHelper_pc v w, fun x value => value ▸ s.afterHelper_reg_some x w, fun void => void ▸ s.afterHelper_reg_none w,
    fun _ arg => s.afterHelper_reg_arg v w arg, fun _ saved => s.afterHelper_reg_saved v w saved,
    fun _ fixed => s.afterHelper_get? v w fixed, s.afterHelper_mem v w, s.afterHelper_frames v w, s.afterHelper_prog v w,
    s.afterHelper_status v w, s.afterHelper_cfg v w, s.afterHelper_env v w⟩

theorem exec_callHelper (id : Imm) (s : State) :
    exec (.callHelper id) s = s.helper .agnostic s.cfg.helpersAgnostic id := rfl

theorem exec_callPlatform (id : Imm) (s : State) :
    exec (.callPlatform id) s = s.helper .platform s.cfg.helpersPlatform id := rfl

/-- Settles O29: a helper call reads its arguments and then has the effect of its outcome (`State.afterHelper_effects`). -/
theorem helperCallEffects : Obligations.HelperCallEffects := by
  intro s id h
  rw [exec_callHelper, exec_callPlatform]
  refine ⟨fun known => ⟨fun r undef => State.helper_undef known undef, fun defd => ?_⟩,
    fun known => ⟨fun r undef => State.helper_undef known undef, fun defd => ?_⟩⟩
  · cases out : s.outcome .agnostic id h ((argRegs h.arity).map fun r => (s.reg r).val) with
    | fault info => exact State.helper_fault known defd out
    | ret v w => exact ⟨_, State.helper_ret known defd out, s.afterHelper_effects v w⟩
  · cases out : s.outcome .platform id h ((argRegs h.arity).map fun r => (s.reg r).val) with
    | fault info => exact State.helper_fault known defd out
    | ret v w => exact ⟨_, State.helper_ret known defd out, s.afterHelper_effects v w⟩

/-- The argument registers made undefined one by one; their bits stay. -/
theorem undefine_isArg (s : State) : RegFile.undefine isArg s.regs =
    ((((s.regs.set 1 ⟨(s.reg 1).val, false⟩).set 2 ⟨(s.reg 2).val, false⟩).set 3 ⟨(s.reg 3).val, false⟩).set 4
      ⟨(s.reg 4).val, false⟩).set 5 ⟨(s.reg 5).val, false⟩ := by
  have bits : s.reg 1 = s.regs[1] ∧ s.reg 2 = s.regs[2] ∧ s.reg 3 = s.regs[3] ∧ s.reg 4 = s.regs[4] ∧ s.reg 5 = s.regs[5] :=
    ⟨rfl, rfl, rfl, rfl, rfl⟩
  refine Vector.ext fun i hi => ?_
  have value := RegFile.undefine_get isArg s.regs ⟨i, hi⟩
  simp only [Fin.getElem_fin] at value
  rw [value]
  obtain rfl | rfl | rfl | rfl | rfl | rfl | rfl | rfl | rfl | rfl | rfl : i = 0 ∨ i = 1 ∨ i = 2 ∨ i = 3 ∨ i = 4 ∨ i = 5 ∨
      i = 6 ∨ i = 7 ∨ i = 8 ∨ i = 9 ∨ i = 10 := by omega
  all_goals simp [isArg, bits]

/-- The outcome of a case with one outcome. -/
theorem State.outcome_only {s : State} {space : HelperSpace} {id : Imm} {h : Helper} {args : List Word} {c : HelperCase}
    (applies : s.helperCase? h args = some c) (only : c.others = []) : s.outcome space id h args = c.outcome := by
  simp only [State.outcome, applies, HelperCase.pick, only]
  rfl

/-- Settles O30: the one outcome of the case that applies (`State.outcome_only`) is what the call returns. -/
theorem helperCallCompletes : Obligations.HelperCallCompletes := by
  intro s id h c v w defd applies out only
  rw [← undefine_isArg]
  have returns (space : HelperSpace) := (State.outcome_only (space := space) (id := id) applies only).trans out
  refine ⟨fun known => ?_, fun known => ?_⟩
  · rw [exec_callHelper, State.helper_ret known defd (returns _)]
    rfl
  · rw [exec_callPlatform, State.helper_ret known defd (returns _)]
    rfl

/-- Settles O54: the search for a case, and what is drawn where there is none. -/
theorem helperOutcomeAllowed : Obligations.HelperOutcomeAllowed := by
  intro s space id h args
  refine ⟨?_, fun c applies => ?_, fun noCase rel obeys => ?_⟩
  · simp [State.helperCase?, State.caseApplies, List.find?_eq_none]
  · obtain ⟨listed, sameArgs, sameBytes⟩ := State.helperCase?_some applies
    refine ⟨listed, sameArgs, sameBytes, ?_⟩
    simp only [State.outcome, applies]
    exact HelperCase.pick_mem c _
  · simp only [State.outcome, noCase]
    exact obeys s args rfl

/-! ## Other agents -/

/-- The cells of the addresses `p` keeps have the same entry at such an address. -/
theorem lookup_filter_key {α β : Type} [BEq α] [LawfulBEq α] {p : α → Bool} {x : α} (kept : p x = true) (cells : List (α × β)) :
    (cells.filter fun c => p c.1).lookup x = cells.lookup x := by
  induction cells with
  | nil => rfl
  | cons c cells ih =>
    by_cases here : x = c.1
    · subst here
      simp [List.lookup, kept]
    · have elsewhere : (x == c.1) = false := beq_eq_false_iff_ne.2 here
      rw [List.filter_cons]
      split <;> simp [List.lookup, elsewhere, ih]

/-- A shared byte holds the last write to it, or what it held (R62). -/
theorem State.land_shared (s : State) (cells : List Host.Cell) {x : Nat} (shared : s.sharedByte x = true) :
    (s.land cells).mem.get? x = (cells.reverse.lookup x).or (s.mem.get? x) := by
  rw [State.land_mem, Memory.get?_putCells_last, ← List.filter_reverse, lookup_filter_key shared]

theorem State.takeEnv_eq_land (s : State) : s.takeEnv.mem = (s.land s.env.now).mem := rfl

theorem State.sharedByte_iff {s : State} {x : Nat} : s.sharedByte x = true ↔ x < 2 ^ 64 ∧
    ∃ lr ∈ s.live, lr.region.shared = true ∧ lr.region.base ≤ x ∧ x < lr.region.base + lr.region.len := by
  simp only [State.sharedByte, Bool.and_eq_true, decide_eq_true_eq, List.any_eq_true, Region.covers_iff, Nat.add_one_le_iff]

/-- Settles O37: other agents' writes land in the shared bytes (`State.land_shared`) and nowhere else
(`State.land_private`). -/
theorem otherAgentsWriteShared : Obligations.OtherAgentsWriteShared := by
  intro s
  refine ⟨s.takeEnv_regs, s.takeEnv_pc, s.takeEnv_frames, s.takeEnv_prog, s.takeEnv_status, s.takeEnv_cfg, s.takeEnv_draws,
    fun x isPrivate => s.land_private _ isPrivate, fun silent => s.takeEnv_silent silent, fun cells later batch => ⟨?_, ?_⟩,
    fun n free => ⟨?_, ?_⟩, fun k x => ?_, fun x => State.sharedByte_iff⟩
  · rw [State.takeEnv_env, batch, OtherAgents.next]
  · intro x shared
    rw [State.takeEnv_eq_land, s.land_shared _ shared, batch, OtherAgents.now]
  · rw [State.takeEnv_env, free, OtherAgents.next]
  · intro x shared
    rw [State.takeEnv_eq_land, s.land_shared _ shared, free, OtherAgents.now]
  · split
    · exact s.land_shared _ ‹_›
    · exact s.land_private _ (Bool.eq_false_iff.2 ‹_›)

/-! ## Value areas of maps -/

theorem Config.frameRegion_mem_allRegions {cfg : Config} {d : Nat} (depth : d ≤ Config.maxCallDepth cfg) :
    Config.frameRegion cfg d ∈ Config.allRegions cfg :=
  List.mem_append_right _ (List.mem_map_of_mem (List.mem_range.2 (Nat.lt_succ_of_le depth)))

theorem State.live_mem_allRegions {s : State} (depth : s.frames.length ≤ Config.maxCallDepth s.cfg) {lr : LiveRegion}
    (live : lr ∈ s.live) : lr.region ∈ Config.allRegions s.cfg := by
  obtain ⟨q, listed, same⟩ | ⟨d, active, same⟩ := State.mem_live.1 ⟨lr, live, rfl⟩
  · exact List.mem_append_left _ (same ▸ List.mem_map_of_mem listed)
  · exact same ▸ Config.frameRegion_mem_allRegions (Nat.le_trans active depth)

theorem Config.isValueArea_of {cfg : Config} {m v : Word} {r : Region} (supported : cfg.mapsSupported = true)
    (area : cfg.mva.lookup m = some v) (low : r.base ≤ v.toNat) (high : v.toNat < r.base + r.len) :
    Config.isValueArea cfg r = true := by
  rw [Config.isValueArea, supported, Bool.true_and, List.any_eq_true]
  exact ⟨(m, v), mem_of_lookup_eq_some area, Region.covers_iff.2 ⟨low, high⟩⟩

/-- Settles O52: a live region that holds a value area is one the environment's duties speak of. -/
theorem mapValueAreasShared : Obligations.MapValueAreasShared := by
  rintro s m v lr ⟨-, -, -, areasShared⟩ depth supported area live low high
  have shared : lr.region.shared = true :=
    areasShared _ (State.live_mem_allRegions depth live) (Config.isValueArea_of supported area low high)
  exact ⟨shared, fun havoc a n => s.load_havoc a n shared havoc⟩

/-! ## Code addresses -/

theorem codeAddrOf_ne {cfg : Config} {size i j : Nat} (small : size ≤ 2 ^ 64) (lower : i < j) (inside : j < size) :
    codeAddrOf cfg size i ≠ codeAddrOf cfg size j := by
  rw [codeAddrOf, codeAddrOf, if_pos (Nat.lt_trans lower inside), if_pos inside]
  exact fun same => freshAddr_not_mem _ (by simp; omega) (same ▸ mem_codeAddrs cfg lower)

/-- Addresses the platform states pairwise different are taken as they are. -/
theorem codeAddrs_stated {cfg : Config} (different : cfg.codeAddr.Nodup) {n : Nat} (stated : n ≤ cfg.codeAddr.length) :
    codeAddrs cfg n = (cfg.codeAddr.take n).reverse := by
  induction n with
  | zero => rfl
  | succ n ih =>
    have inside : n < cfg.codeAddr.length := stated
    have split := List.take_append_getElem inside
    have fresh : cfg.codeAddr[n] ∉ cfg.codeAddr.take n := by
      have nodup := split ▸ different.sublist (List.take_sublist (n + 1) _)
      exact fun earlier => (List.nodup_append.1 nodup).2.2 _ earlier _ (List.mem_singleton_self _) rfl
    have wanted : wantedCodeAddr cfg n = cfg.codeAddr[n] := by simp [wantedCodeAddr, inside]
    rw [codeAddrs, ih (Nat.le_of_lt inside), wanted, freshAddr, if_neg (by simpa using fresh), ← split,
      List.reverse_append, List.reverse_singleton, List.singleton_append]

/-- Settles O53: the address of a slot is none of those below it (`freshAddr_not_mem`), and the one stated where those
below it are the ones stated (`codeAddrs_stated`). -/
theorem codeAddrInjective : Obligations.CodeAddrInjective := by
  intro cfg size
  refine ⟨fun small i j insideI insideJ same => ?_, fun different i v stated => ?_⟩
  · obtain lower | equal | higher := Nat.lt_trichotomy i j
    · exact absurd same (codeAddrOf_ne small lower insideJ)
    · exact equal
    · exact absurd same.symm (codeAddrOf_ne small higher insideI)
  · have inside : i < cfg.codeAddr.length := (List.getElem?_eq_some_iff.1 stated).1
    have next := codeAddrs_stated different (n := i + 1) inside
    rw [codeAddrs, ← List.take_append_getElem inside, List.reverse_append, List.reverse_singleton,
      List.singleton_append, List.cons.injEq] at next
    have wanted : wantedCodeAddr cfg i = v := by rw [wantedCodeAddr, stated, Option.getD_some]
    rw [codeAddrOf, next.1, wanted, ite_eq_right_iff]
    exact fun _ => Option.some.inj ((List.getElem?_eq_getElem inside).symm.trans stated)

end Sys2Proof.Machine
